-- ==== Sys2Proof/Word.lean ====
section
/-! DEFINITION. The widths of the block's values: bytes, logical levels, event words, and the frame length. -/

namespace Sys2Proof

/-- `u8`: the width of every intensity, of the duty counter and of the light reading (R6, R8). -/
abbrev Byte := BitVec 8

/-- `u32`: an event word (R38) or the host's write data (R5). -/
abbrev Word := BitVec 32

/-- The logical level of an output line, one bit (R14). -/
abbrev Level := Bool

/-- `ON = 1` (R8). -/
abbrev ON : Level := true

/-- `OFF = 0` (R8). -/
abbrev OFF : Level := false

/-- `FRAME`: the number of ticks from one wrap of the duty counter to the next (R6). -/
abbrev frameTicks : Nat := 256

/-- `x[0]`, `x[1]`, `x[2]`: the three channels (R6 `N_CH = 3`, R8). -/
inductive Channel where
  | red
  | green
  | blue
deriving DecidableEq, Repr

/-- One value for each channel, in the order in which the source names them: R, G, B. -/
@[ext] structure Rgb (α : Type) where
  r : α
  g : α
  b : α
deriving DecidableEq, Repr

end Sys2Proof
end

