-- ==== Sys2Proof/Machine/Flags.lean ====
section
/-! DEFINITION. The three output bits: the block's only single-bit state (R14). The block has no other flag (R14, R16). -/

namespace Sys2Proof.Machine

/-- Step 2b of R51 for one channel: on the wrap tick the line goes ON if its latched value is above 0, else it keeps its level. -/
def turnOnLevel (latched : Byte) (level : Level) : Level :=
  if 0#8 < latched then ON else level

/-- Step 3 of R51 for one channel: the line goes OFF if its latched value equals the counter, else it keeps its level. -/
def compareLevel (duty latched : Byte) (level : Level) : Level :=
  if latched = duty then OFF else level

end Sys2Proof.Machine
end

