-- ==== Sys2Proof/Config.lean ====
section
/-! DEFINITION. What one instance of the block fixes and the spec leaves open (R7), and the free values.
None of the opaque constants has a body: no proof can use a value of one. -/

namespace Sys2Proof

/-- `DUTY_RESET`, 0..255, the same at every `RESET` of one model instance (R7, R21, D5). -/
opaque Config.dutyReset : Byte

/-- `AMBIENT_RESET`: draw number `n`, under no law (R7, R21, D8). The step counts the draws in `State.draws`. -/
opaque Config.ambientReset : Nat → Byte

/-- Which of several pulses presented at the same instant is performed first (R30, R83, U6): choice number `n`,
under no law. The step counts the choices in `State.ties`. -/
opaque Config.tieBreak : Nat → Nat

/-- `LED_ACTIVE_LEVEL`, the electrical level of a lit line (R7, R14, D3): `true` is 1. Used by no operation. -/
opaque Config.ledActiveLevel : Bool

/-- A positive rate, as the fraction `(numPred + 1) / (denPred + 1)`. -/
structure Rate where
  numPred : Nat
  denPred : Nat
deriving DecidableEq, Repr, Inhabited

/-- The rate's value; it is positive whatever the two numbers are. -/
def Rate.value (q : Rate) : ℚ := (q.numPred + 1) / (q.denPred + 1)

/-- `F_TICK`, the tick timer's rate (R7, D4). Used by no operation: the model has no time. -/
opaque Config.tickRate : Rate

/-- `F_ADC`, the converter's rate (R7, D4). No relation to `F_TICK` is assumed (90_conflicts.md C1). -/
opaque Config.adcRate : Rate

/-- One full frame lasts `256 / F_TICK` (R88). -/
def Config.frameTime : ℚ := frameTicks / Config.tickRate.value

/-- The PWM frame rate is `F_TICK / 256` (R88). -/
def Config.frameRate : ℚ := Config.tickRate.value / frameTicks

end Sys2Proof
end

