-- ==== Sys2Proof/Syntax.lean ====
section
/-! DEFINITION. The eight operations (R2), one constructor per row of spec/opcode_table.json. -/

namespace Sys2Proof

/-- An operation: one atomic event at the block's boundary (R1, R2, R30).
Every operand is an unsigned byte and every value of it is legal (R41). -/
inductive Instr where
  /-- `TICK`, agent T (R51). -/
  | tick
  /-- `SAMPLE v`, agent A (R63). -/
  | sample (v : Byte)
  /-- `WR_R v`, agent H (R69). -/
  | wrR (v : Byte)
  /-- `WR_G v`, agent H (R70). -/
  | wrG (v : Byte)
  /-- `WR_B v`, agent H (R71). -/
  | wrB (v : Byte)
  /-- `WR_RGB r,g,b`, agent H (R72). -/
  | wrRgb (r g b : Byte)
  /-- `RD_AMB`, agent H (R73). -/
  | rdAmb
  /-- `RESET`, agent X (R93). -/
  | reset
deriving DecidableEq, Repr

end Sys2Proof
end

