-- ==== Sys2Proof/Machine/Boundary.lean ====
section
/-! DEFINITION. What may stand at the block's boundary: event words, host accesses, pins (R5), lines of trace text (R47, R48),
and the names of the boundary's rejections (R82). -/

namespace Sys2Proof.Machine

/-- The four kinds of agent (R2). -/
inductive Agent where
  /-- T, the fixed-rate tick timer. -/
  | timer
  /-- A, the analogue-to-digital converter. -/
  | converter
  /-- H, the host. -/
  | host
  /-- X, the reset source. -/
  | resetSource
deriving DecidableEq, Repr

/-- The three formats of an event word (R39). -/
inductive Format where
  /-- N: no operand. -/
  | none
  /-- B: one byte, in `p0`. -/
  | byte
  /-- T: a triple, `r` in `p0`, `g` in `p1`, `b` in `p2`. -/
  | triple
deriving DecidableEq, Repr

/-- One row of the opcode map (R40). -/
structure OpRow where
  opcode  : BitVec 4
  format  : Format
  agent   : Agent
  pattern : Word
  mask    : Word
deriving DecidableEq, Repr

/-- Why the boundary rejects an input (R82). -/
inductive Reject where
  /-- `Refuse(ReservedOp)` (R43). -/
  | reservedOp
  /-- `Refuse(ReservedBits)` (R42). -/
  | reservedBits
  /-- `Refuse(BadAccess)` (R27). -/
  | badAccess
deriving DecidableEq, Repr

/-- A host access of the register window (R8, R22): an offset, a size in bytes, and for a write the data on the write
lanes, of which an `n`-byte write uses the low `8 n` bits (R46). Offsets and sizes outside the window's own are here so
that they can be refused by name (R27, U3). -/
inductive BusAccess where
  /-- `MemWrite(offset, size, data)`. -/
  | write (offset size : Nat) (data : Word)
  /-- `MemRead(offset, size)`. -/
  | read (offset size : Nat)
deriving DecidableEq, Repr

/-- The input ports at one instant (R5). A `true` in `rst`, `tick`, `adcDone`, `hReq` is one pulse. -/
structure Pins where
  rst     : Bool
  tick    : Bool
  adcDone : Bool
  adcData : Byte
  hReq    : Bool
  hWe     : Bool
  hSize   : Bool
  hAddr   : BitVec 2
  hWdata  : Word
deriving DecidableEq, Repr

/-- The four ports that carry pulses; a pulse is one operation (R46). -/
inductive Pulse where
  | rst
  | tick
  | adcDone
  | hReq
deriving DecidableEq, Repr

/-- One item of the environment's input. -/
inductive Input where
  /-- An event word (R38). -/
  | word (e : Word)
  /-- A host access (R24 to R27). -/
  | bus (a : BusAccess)
  /-- The pins at one instant, with any number of pulses (R5, R46). -/
  | pins (p : Pins)
deriving DecidableEq, Repr

/-- A line of trace text before its mnemonic is looked up (R47): the mnemonic, the operands as they were written, and
the value after `->` where the line states one. -/
structure RawLine where
  mnemonic : List Char
  operands : List Nat
  stated   : Option Nat
deriving DecidableEq, Repr

/-- A line of a trace: an operation, a read with its value stated, or one of the four pseudo-operations (R47, R48). -/
inductive TraceLine where
  /-- One operation, nothing stated about a returned value. -/
  | op (i : Instr)
  /-- `RD_AMB -> v`. -/
  | readIs (v : Byte)
  /-- `TICKS n`. -/
  | ticks (n : Nat)
  /-- `FRAME`. -/
  | frame
  /-- `SET_RGB r, g, b`. -/
  | setRgb (r g b : Byte)
  /-- `BAD_ACCESS`. -/
  | badAccess
deriving DecidableEq, Repr

end Sys2Proof.Machine
end

