-- ==== Sys2Proof/Machine/State.lean ====
section
/-! DEFINITION. The state of the block (10_state.md), what the model keeps beside it, and why a step may stop. -/

namespace Sys2Proof.Machine

/-- The eleven registers, 59 bits: all the state the block has (R17). -/
@[ext]
structure Block where
  /-- `x`: `RED`, `GREEN`, `BLUE`, the intensity targets (R9). -/
  x       : Rgb Byte
  /-- `l`: `LR`, `LG`, `LB`, the latched intensities (R11). -/
  l       : Rgb Byte
  /-- `DUTY`, the free-running tick counter (R12). -/
  duty    : Byte
  /-- `out`: `OUT_R`, `OUT_G`, `OUT_B`, the logical levels of the lines (R14). -/
  out     : Rgb Level
  /-- `AMBIENT`, the latest light reading (R10). -/
  ambient : Byte
deriving DecidableEq, Repr

/-- The block and the model's own four fields. -/
@[ext]
structure State where
  /-- The block's registers. -/
  block  : Block
  /-- MODEL'S OWN. The environment's events still to come, the next one first: the total order of R30 (log 1). -/
  input  : List Input
  /-- MODEL'S OWN. The values `RD_AMB` has returned, the newest first: the record of the run (R49; log 3). -/
  record : List Byte
  /-- MODEL'S OWN. The number of the next draw of `AMBIENT_RESET` (R93; log 5). -/
  draws  : Nat
  /-- MODEL'S OWN. The number of the next choice between simultaneous pulses (R30, R83; log 11). -/
  ties   : Nat
deriving DecidableEq, Repr

/-- The hardware raises no exception, of any kind, ever (R77), so there is no fault (log 18). Nothing raises one. -/
inductive Fault where
deriving DecidableEq, Repr

/-- Why a step gives no next state: verdicts of the model's boundary, not of the hardware (R82). Each ends the run, so
that the whole run is marked refused (R82, D30; log 8). -/
inductive Refusal where
  /-- An operation without a meaning yet. Raised by no arm of `exec`: all eight have theirs. Safe. -/
  | notModelled (mnemonic : String)
  /-- `Refuse(ReservedOp)`, raised by the decoder on an `op` of 0x0 or 0x8 to 0xE (R43). Safe: no claim follows. -/
  | reservedOp
  /-- `Refuse(ReservedBits)`, raised by the decoder on a non-zero reserved or unused bit (R42). Safe: no claim follows. -/
  | reservedBits
  /-- `Refuse(BadAccess)`, raised by the host bus on any access but the five of R24 to R26 (R27). Safe: no claim follows. -/
  | badAccess
deriving DecidableEq, Repr

/-- The machine right after reset (R21, R93): draw number 0 has given `AMBIENT`, and no event is waiting (log 17). -/
def State.reset : State where
  block :=
    { x := ⟨0#8, 0#8, 0#8⟩
      l := ⟨0#8, 0#8, 0#8⟩
      duty := Config.dutyReset
      out := ⟨OFF, OFF, OFF⟩
      ambient := Config.ambientReset 0 }
  input := []
  record := []
  draws := 1
  ties := 0

end Sys2Proof.Machine
end

