-- ==== Sys2Proof/Machine/Ops.lean ====
section
/-! DEFINITION. The shared operations over the registers. The block has no memory (R22), no stack and no exception to take
or to return from (R77, R84, R85), so there is no operation of those kinds. -/

namespace Sys2Proof

/-- The value of one channel: the indexed forms `x[c]`, `l[c]`, `out[c]` (R8). -/
def Rgb.get {α : Type} (t : Rgb α) (c : Channel) : α :=
  match c with
  | .red   => t.r
  | .green => t.g
  | .blue  => t.b

/-- `x[c] <- v` (R8). -/
def Rgb.set {α : Type} (t : Rgb α) (c : Channel) (v : α) : Rgb α :=
  match c with
  | .red   => { t with r := v }
  | .green => { t with g := v }
  | .blue  => { t with b := v }

/-- The same scalar rule on each channel, none of which sees another (R57). -/
def Rgb.zipWith {α β γ : Type} (f : α → β → γ) (s : Rgb α) (t : Rgb β) : Rgb γ :=
  ⟨f s.r t.r, f s.g t.g, f s.b t.b⟩

namespace Machine

/-- `inc8(d) = (d + 1) mod 256`, the only arithmetic of the block (R8, R52). -/
def inc8 (d : Byte) : Byte := d + 1#8

/-- Step 1 of R51: `DUTY <- inc8(DUTY)`. -/
def Block.count (b : Block) : Block := { b with duty := inc8 b.duty }

/-- Step 2a of R51: `(LR, LG, LB) <- (RED, GREEN, BLUE)`, one snapshot (R35, R54). -/
def Block.latch (b : Block) : Block := { b with l := b.x }

/-- Step 2b of R51: turn ON the lines whose latched value is above 0. -/
def Block.turnOn (b : Block) : Block := { b with out := Rgb.zipWith turnOnLevel b.l b.out }

/-- Step 3 of R51: turn OFF the lines whose latched value equals the counter. -/
def Block.compare (b : Block) : Block := { b with out := Rgb.zipWith (compareLevel b.duty) b.l b.out }

/-- Step 2 of R51: the start of a frame, done only where the counter has just become 0. -/
def Block.startFrame (b : Block) : Block :=
  if b.duty = 0#8 then b.latch.turnOn else b

/-- `x[c] <- v`: a host's byte write (R24). -/
def Block.setX (b : Block) (c : Channel) (v : Byte) : Block := { b with x := b.x.set c v }

/-- `(RED, GREEN, BLUE) <- t`, one step (R25, R35). -/
def Block.setAllX (b : Block) (t : Rgb Byte) : Block := { b with x := t }

/-- `AMBIENT <- v` (R63). -/
def Block.setAmbient (b : Block) (v : Byte) : Block := { b with ambient := v }

/-- The registers after a `RESET`, for a value of `DUTY_RESET` and one of `AMBIENT_RESET` (R21, R93). -/
def Block.afterReset (dutyReset ambientReset : Byte) : Block where
  x := ⟨0#8, 0#8, 0#8⟩
  l := ⟨0#8, 0#8, 0#8⟩
  duty := dutyReset
  out := ⟨OFF, OFF, OFF⟩
  ambient := ambientReset

/-- An operation that writes registers and does nothing else. -/
def State.withBlock (s : State) (b : Block) : State := { s with block := b }

/-- Return a value to the host: it joins the record of the run (R49). -/
def State.returnByte (s : State) (v : Byte) : State := { s with record := v :: s.record }

/-- The port `h_rdata` (R5): the value that the latest `RD_AMB` returned, if there was one (log 3). -/
def State.hRdata (s : State) : Option Byte := s.record.head?

/-- The ports `led_r`, `led_g`, `led_b` (R5, R14): the logical level, with no delay (D3). -/
def State.led (s : State) (c : Channel) : Level := s.block.out.get c

/-- The electrical level of a line: `LED_ACTIVE_LEVEL` where it is ON, the other level where it is OFF (R14, D3). -/
def State.pinLevel (s : State) (c : Channel) : Bool :=
  if s.led c = ON then Config.ledActiveLevel else !Config.ledActiveLevel

end Machine

end Sys2Proof
end

