-- ==== Sys2Proof/Machine/HostAccess.lean ====
section
/-! DEFINITION. The host's five operations (42_host_access.md). -/

namespace Sys2Proof.Machine

/-- `WR_R v`: `RED <- v` (R69). -/
def execWrR (v : Byte) (s : State) : Host.Outcome State Fault Refusal := .next (s.withBlock (s.block.setX .red v))

/-- `WR_G v`: `GREEN <- v` (R70). -/
def execWrG (v : Byte) (s : State) : Host.Outcome State Fault Refusal := .next (s.withBlock (s.block.setX .green v))

/-- `WR_B v`: `BLUE <- v` (R71). -/
def execWrB (v : Byte) (s : State) : Host.Outcome State Fault Refusal := .next (s.withBlock (s.block.setX .blue v))

/-- `WR_RGB r,g,b`: `(RED, GREEN, BLUE) <- (r, g, b)` in one step (R72). -/
def execWrRgb (r g b : Byte) (s : State) : Host.Outcome State Fault Refusal := .next (s.withBlock (s.block.setAllX ⟨r, g, b⟩))

/-- `RD_AMB`: return `AMBIENT`, no register changes and nothing is acknowledged (R73, R28). -/
def execRdAmb (s : State) : Host.Outcome State Fault Refusal := .next (s.returnByte s.block.ambient)

end Sys2Proof.Machine
end

