-- ==== Sys2Proof/Machine/Renderer.lean ====
section
/-! DEFINITION. The renderer's operation `TICK` (40_pwm_renderer.md). -/

namespace Sys2Proof.Machine

/-- `TICK` on the registers: count, start a frame on the wrap tick, compare on every tick, the wrap tick included
(R51; D9, 90_conflicts.md C4). -/
def Block.tick (b : Block) : Block := b.count.startFrame.compare

/-- `TICK` (R51). -/
def execTick (s : State) : Host.Outcome State Fault Refusal := .next (s.withBlock s.block.tick)

end Sys2Proof.Machine
end

