-- ==== Sys2Proof/Machine/Sampler.lean ====
section
/-! DEFINITION. The sampler's operation `SAMPLE` (41_light_sampler.md). -/

namespace Sys2Proof.Machine

/-- `SAMPLE v`: `AMBIENT <- v`, whether or not the old value was read (R63, R64). -/
def execSample (v : Byte) (s : State) : Host.Outcome State Fault Refusal := .next (s.withBlock (s.block.setAmbient v))

end Sys2Proof.Machine
end

