-- ==== Sys2Proof/Machine/SystemReset.lean ====
section
/-! DEFINITION. The operation `RESET` (70_reset_and_hazards.md). -/

namespace Sys2Proof.Machine

/-- `RESET`: all eleven registers, with a fresh draw of `AMBIENT_RESET` (R93). The environment's events and the record
of the run are no state of the block and stay (R18). -/
def execReset (s : State) : Host.Outcome State Fault Refusal :=
  .next { s with block := Block.afterReset Config.dutyReset (Config.ambientReset s.draws), draws := s.draws + 1 }

end Sys2Proof.Machine
end

