-- ==== Sys2Proof/Machine/Dispatch.lean ====
section
/-! DEFINITION. One arm per operation. -/

namespace Sys2Proof.Machine

/-- The meaning of each operation. -/
def exec (i : Instr) (s : State) : Host.Outcome State Fault Refusal :=
  match i with
  | .tick => Sys2Proof.Machine.execTick s
  | .sample v => Sys2Proof.Machine.execSample v s
  | .wrR v => Sys2Proof.Machine.execWrR v s
  | .wrG v => Sys2Proof.Machine.execWrG v s
  | .wrB v => Sys2Proof.Machine.execWrB v s
  | .wrRgb r g b => Sys2Proof.Machine.execWrRgb r g b s
  | .rdAmb => Sys2Proof.Machine.execRdAmb s
  | .reset => Sys2Proof.Machine.execReset s

end Sys2Proof.Machine
end

