-- ==== Sys2Proof/Machine/Operands.lean ====
section
/-! DEFINITION. The fields of an event word (R38) and of the host's write data (R25): every operand is one byte taken as it is (R41). -/

namespace Sys2Proof.Machine

/-- `e[31:28]` (R38). -/
def opField (e : Word) : BitVec 4 := e.extractLsb' 28 4

/-- `e[27:24]`, reserved (R38). -/
def rsvField (e : Word) : BitVec 4 := e.extractLsb' 24 4

/-- `e[23:16]`, payload byte 2 (R38); also the lane of `BLUE` in a 32-bit write (R25). -/
def byte2 (e : Word) : Byte := e.extractLsb' 16 8

/-- `e[15:8]`, payload byte 1 (R38); also the lane of `GREEN` in a 32-bit write (R25). -/
def byte1 (e : Word) : Byte := e.extractLsb' 8 8

/-- `e[7:0]`, payload byte 0 (R38); also the lane of `RED` in a 32-bit write and of every 8-bit write (R25, R46). -/
def byte0 (e : Word) : Byte := e.extractLsb' 0 8

/-- The event word with `rsv = 0` and the given fields: `{op, 0, p2, p1, p0}` (R38). -/
def joinFields (op : BitVec 4) (p2 p1 p0 : Byte) : Word := op ++ 0#4 ++ p2 ++ p1 ++ p0

end Sys2Proof.Machine
end

