-- ==== Sys2Proof/WellFormed.lean ====
section
/-! DEFINITION. What a term given to the block must satisfy. An operation itself has no ill-formed term: every value of every
operand is legal (R41). The checks are on what is spelled: an event word (R40, R42, R43), a host access (R24 to R27), a line of
trace text (R47). -/

namespace Sys2Proof.Machine

/-- Which payload bytes may be other than 0 (R39). -/
def Format.payloadOk (f : Format) (e : Word) : Bool :=
  match f with
  | .none   => byte2 e == 0#8 && byte1 e == 0#8 && byte0 e == 0#8
  | .byte   => byte2 e == 0#8 && byte1 e == 0#8
  | .triple => true

/-- The format of an `op` value, if it is not reserved (R40, R43). -/
def formatOfOp (op : BitVec 4) : Option Format :=
  if op = 0x1#4 then some .none
  else if op = 0x2#4 then some .byte
  else if op = 0x3#4 then some .byte
  else if op = 0x4#4 then some .byte
  else if op = 0x5#4 then some .byte
  else if op = 0x6#4 then some .triple
  else if op = 0x7#4 then some .none
  else if op = 0xF#4 then some .none
  else Option.none

/-- The word has a known `op`, `rsv = 0` and its format's unused payload bytes 0 (R42, R43). -/
def wordWellFormed (e : Word) : Bool :=
  rsvField e == 0#4 &&
  match formatOfOp (opField e) with
  | some f => f.payloadOk e
  | Option.none => false

/-- The access is one of the five that have a meaning (R24 to R26). -/
def BusAccess.wellFormed : BusAccess → Bool
  | .write a n _ => (n == 1 && decide (a < 3)) || (n == 4 && a == 0)
  | .read a n    => n == 1 && a == 3

/-- How many operands a mnemonic takes: the eight operations and the pseudo-operations (R47, R48). -/
def operandCount (m : List Char) : Option Nat :=
  if m = "TICK".toList then some 0
  else if m = "SAMPLE".toList then some 1
  else if m = "WR_R".toList then some 1
  else if m = "WR_G".toList then some 1
  else if m = "WR_B".toList then some 1
  else if m = "WR_RGB".toList then some 3
  else if m = "RD_AMB".toList then some 0
  else if m = "RESET".toList then some 0
  else if m = "TICKS".toList then some 1
  else if m = "FRAME".toList then some 0
  else if m = "SET_RGB".toList then some 3
  else if m = "BAD_ACCESS".toList then some 0
  else Option.none

/-- The line's mnemonic is known, it has its number of operands, each of them 0..255 (but for the count of `TICKS`,
which has no bound), and only `RD_AMB` states a returned value, 0..255 (R47, R48). -/
def RawLine.wellFormed (l : RawLine) : Bool :=
  operandCount l.mnemonic == some l.operands.length &&
  (l.mnemonic == "TICKS".toList || l.operands.all (fun v => decide (v < 256))) &&
  match l.stated with
  | Option.none => true
  | some v => l.mnemonic == "RD_AMB".toList && decide (v < 256)

end Sys2Proof.Machine
end

