-- ==== Sys2Proof/Decode.lean ====
section
/-! DEFINITION. From event words, host accesses and pins to operations, and back to words (30_encoding.md). -/

namespace Sys2Proof

open Machine

/-- `decode` of R45: total on all words, rejecting by name. `rsv` is tested first, so a word with both faults is
rejected as `reservedBits`. -/
def decode (e : Word) : Except Reject Instr :=
  if rsvField e ≠ 0#4 then .error .reservedBits
  else if opField e = 0x1#4 then
    if byte2 e = 0#8 ∧ byte1 e = 0#8 ∧ byte0 e = 0#8 then .ok .tick else .error .reservedBits
  else if opField e = 0x2#4 then
    if byte2 e = 0#8 ∧ byte1 e = 0#8 then .ok (.sample (byte0 e)) else .error .reservedBits
  else if opField e = 0x3#4 then
    if byte2 e = 0#8 ∧ byte1 e = 0#8 then .ok (.wrR (byte0 e)) else .error .reservedBits
  else if opField e = 0x4#4 then
    if byte2 e = 0#8 ∧ byte1 e = 0#8 then .ok (.wrG (byte0 e)) else .error .reservedBits
  else if opField e = 0x5#4 then
    if byte2 e = 0#8 ∧ byte1 e = 0#8 then .ok (.wrB (byte0 e)) else .error .reservedBits
  else if opField e = 0x6#4 then .ok (.wrRgb (byte0 e) (byte1 e) (byte2 e))
  else if opField e = 0x7#4 then
    if byte2 e = 0#8 ∧ byte1 e = 0#8 ∧ byte0 e = 0#8 then .ok .rdAmb else .error .reservedBits
  else if opField e = 0xF#4 then
    if byte2 e = 0#8 ∧ byte1 e = 0#8 ∧ byte0 e = 0#8 then .ok .reset else .error .reservedBits
  else .error .reservedOp

/-- The event word of an operation (R38 to R41). -/
def encode (i : Instr) : Word :=
  match i with
  | .tick        => joinFields 0x1#4 0#8 0#8 0#8
  | .sample v    => joinFields 0x2#4 0#8 0#8 v
  | .wrR v       => joinFields 0x3#4 0#8 0#8 v
  | .wrG v       => joinFields 0x4#4 0#8 0#8 v
  | .wrB v       => joinFields 0x5#4 0#8 0#8 v
  | .wrRgb r g b => joinFields 0x6#4 b g r
  | .rdAmb       => joinFields 0x7#4 0#8 0#8 0#8
  | .reset       => joinFields 0xF#4 0#8 0#8 0#8

/-- The row of the opcode map that an operation belongs to (R40). -/
def Instr.row (i : Instr) : OpRow :=
  match i with
  | .tick        => ⟨0x1#4, .none,   .timer,       0x10000000#32, 0xFFFFFFFF#32⟩
  | .sample _    => ⟨0x2#4, .byte,   .converter,   0x20000000#32, 0xFFFFFF00#32⟩
  | .wrR _       => ⟨0x3#4, .byte,   .host,        0x30000000#32, 0xFFFFFF00#32⟩
  | .wrG _       => ⟨0x4#4, .byte,   .host,        0x40000000#32, 0xFFFFFF00#32⟩
  | .wrB _       => ⟨0x5#4, .byte,   .host,        0x50000000#32, 0xFFFFFF00#32⟩
  | .wrRgb _ _ _ => ⟨0x6#4, .triple, .host,        0x60000000#32, 0xFF000000#32⟩
  | .rdAmb       => ⟨0x7#4, .none,   .host,        0x70000000#32, 0xFFFFFFFF#32⟩
  | .reset       => ⟨0xF#4, .none,   .resetSource, 0xF0000000#32, 0xFFFFFFFF#32⟩

/-- The opcode map (R40): one row an operation, each written once in `Instr.row`. -/
def opTable : List OpRow :=
  [Instr.row .tick, Instr.row (.sample 0#8), Instr.row (.wrR 0#8), Instr.row (.wrG 0#8), Instr.row (.wrB 0#8),
   Instr.row (.wrRgb 0#8 0#8 0#8), Instr.row .rdAmb, Instr.row .reset]

/-- The agent that performs an operation (R2). -/
def Instr.agent (i : Instr) : Agent := i.row.agent

/-- The operation of a host access: exactly five have one (R24 to R26), every other access is refused (R27). An 8-bit
write uses data bits 7:0 and the 32-bit write bits 23:0; the bits above are ignored (R25, R46). -/
def decodeAccess (a : BusAccess) : Except Reject Instr :=
  match a with
  | .write offset size w =>
    if size = 1 then
      if offset = 0 then .ok (.wrR (byte0 w))
      else if offset = 1 then .ok (.wrG (byte0 w))
      else if offset = 2 then .ok (.wrB (byte0 w))
      else .error .badAccess
    else if size = 4 ∧ offset = 0 then .ok (.wrRgb (byte0 w) (byte1 w) (byte2 w))
    else .error .badAccess
  | .read offset size =>
    if size = 1 ∧ offset = 3 then .ok .rdAmb else .error .badAccess

/-- The host access that the host's pins spell (R5, R46): `h_size` 0 is an 8-bit access, 1 a 32-bit access. -/
def Machine.Pins.access (p : Pins) : BusAccess :=
  let size := if p.hSize then 4 else 1
  if p.hWe then .write p.hAddr.toNat size p.hWdata else .read p.hAddr.toNat size

/-- The operation of one pulse (R46). -/
def Machine.Pins.operation (p : Pins) (q : Pulse) : Except Reject Instr :=
  match q with
  | .rst     => .ok .reset
  | .tick    => .ok .tick
  | .adcDone => .ok (.sample p.adcData)
  | .hReq    => decodeAccess p.access

/-- The pulses presented at the instant, at most one a port (R5). -/
def Machine.Pins.pulses (p : Pins) : List Pulse :=
  (if p.rst then [.rst] else []) ++ (if p.tick then [.tick] else []) ++
  (if p.adcDone then [.adcDone] else []) ++ (if p.hReq then [.hReq] else [])

/-- The instant with one pulse taken off, once it has been performed (R86: every event exactly once). -/
def Machine.Pins.without (p : Pins) (q : Pulse) : Pins :=
  match q with
  | .rst     => { p with rst := false }
  | .tick    => { p with tick := false }
  | .adcDone => { p with adcDone := false }
  | .hReq    => { p with hReq := false }

/-- The operation that the decoder reads from an instruction of `nbits` bits, numbered as spec/opcode_table.json
numbers them: an event word is 32 bits and nothing else (R44), so a word with a bit above bit 31 is no instruction. -/
def decodeTableWord (nbits w : Nat) : Option Instr :=
  if w % 2 ^ nbits < 2 ^ 32 then (decode (BitVec.ofNat 32 (w % 2 ^ nbits))).toOption else none

end Sys2Proof
end

