-- ==== Sys2Proof/Machine/Fetch.lean ====
section
/-! DEFINITION. Taking the next event off the environment's input. -/

namespace Sys2Proof.Machine

/-- The refusal that reports a rejected input by name (R82). -/
def Reject.refusal (r : Reject) : Refusal :=
  match r with
  | .reservedOp   => .reservedOp
  | .reservedBits => .reservedBits
  | .badAccess    => .badAccess

/-- Take one pulse of an instant. Of several, the free choice number `ties` says which, and the others stay at the head
of the input (R30, R83: either order; R86: each exactly once; log 11). -/
def State.takePulse (s : State) (p : Pins) (rest : List Input) : Option (Except Reject Instr) × State :=
  match p.pulses with
  | []  => (none, { s with input := rest })
  | [q] => (some (p.operation q), { s with input := rest })
  | q :: qs =>
    let chosen := (q :: qs).getD (Config.tieBreak s.ties % (q :: qs).length) q
    (some (p.operation chosen), { s with input := .pins (p.without chosen) :: rest, ties := s.ties + 1 })

/-- The next event of the run, decoded, and the state in which it is performed. `none` where no event is waiting or the
pins carry no pulse: the absence of an event is not an event (R43; log 2). -/
def State.fetch (s : State) : Option (Except Reject Instr) × State :=
  match s.input with
  | []              => (none, s)
  | .word e :: rest => (some (decode e), { s with input := rest })
  | .bus a :: rest  => (some (decodeAccess a), { s with input := rest })
  | .pins p :: rest => s.takePulse p rest

/-- Put one event word before the events that are waiting. -/
def State.pushWord (s : State) (e : Word) : State := { s with input := .word e :: s.input }

/-- The bits of an instruction of `nbits` bits as an event word, the bits above `nbits` zero (R44). -/
def tableWord (nbits w : Nat) : Word := BitVec.ofNat 32 (w % 2 ^ nbits)

end Sys2Proof.Machine
end

