-- ==== Sys2Proof/Machine/Step.lean ====
section
/-! DEFINITION. One step: perform the next event of the environment's order, entirely (R30, R84). -/

namespace Sys2Proof.Machine

/-- Perform the next event. A rejected input refuses the run by name (R82); where no event is waiting nothing happens (log 2). -/
def step (s : State) : Host.Outcome State Fault Refusal :=
  match s.fetch with
  | (none, t)            => .next t
  | (some (.ok i), t)    => exec i t
  | (some (.error r), _) => .refused r.refusal

/-- The state with an event word placed where the next step takes its event, before the events that wait (log 17). -/
def State.withFetchWord (s : State) (nbits w : Nat) : State := s.pushWord (tableWord nbits w)

end Sys2Proof.Machine
end

