-- ==== Sys2Proof/Machine/Trace.lean ====
section
/-! DEFINITION. Trace text (R47), its pseudo-operations (R48) and the values it states (R49). -/

namespace Sys2Proof.Machine

/-- Cut a text at every occurrence of a character. -/
def splitAtChar (sep : Char) : List Char → List (List Char)
  | [] => [[]]
  | c :: cs =>
    if c = sep then [] :: splitAtChar sep cs
    else match splitAtChar sep cs with
      | [] => [[c]]
      | w :: ws => (c :: w) :: ws

/-- Blanks at the two ends do not count (log 14). -/
def trimBlanks (t : List Char) : List Char :=
  ((t.dropWhile (· == ' ')).reverse.dropWhile (· == ' ')).reverse

/-- `#` starts a comment that runs to the end of the line (R47). -/
def cutComment (t : List Char) : List Char := t.takeWhile (· != '#')

/-- The value of a decimal digit. -/
def decimalDigit (c : Char) : Option Nat :=
  if 48 ≤ c.toNat ∧ c.toNat ≤ 57 then some (c.toNat - 48) else none

/-- The value of a hexadecimal digit, capital or small (log 14). -/
def hexDigit (c : Char) : Option Nat :=
  if 65 ≤ c.toNat ∧ c.toNat ≤ 70 then some (c.toNat - 55)
  else if 97 ≤ c.toNat ∧ c.toNat ≤ 102 then some (c.toNat - 87)
  else decimalDigit c

/-- Digits, the most significant first, after the value read so far. -/
def digitsFrom (base : Nat) (digit : Char → Option Nat) (sofar : Nat) : List Char → Option Nat
  | [] => some sofar
  | c :: cs => match digit c with
    | some d => digitsFrom base digit (sofar * base + d) cs
    | none => none

/-- At least one digit. -/
def digits (base : Nat) (digit : Char → Option Nat) (t : List Char) : Option Nat :=
  if t = [] then none else digitsFrom base digit 0 t

/-- An unsigned integer in decimal or, with the prefix `0x`, in hexadecimal (R47). -/
def number (t : List Char) : Option Nat :=
  match t with
  | '0' :: 'x' :: hs => digits 16 hexDigit hs
  | _ => digits 10 decimalDigit t

/-- Numbers separated by commas; no text at all is no numbers (R47). -/
def numberList (t : List Char) : Option (List Nat) :=
  if t = [] then some [] else (splitAtChar ',' t).mapM (fun w => number (trimBlanks w))

/-- Take one line apart: `some none` is a blank line (R47). DESIGN CHOICE (log 14): the mnemonic of every line, `RD_AMB` before
`->` included, ends at the first space or at the line's end, so `RD_AMB->0x90` is no line; after `->` no space is needed. -/
def rawLine (line : List Char) : Option (Option RawLine) :=
  let text := trimBlanks (cutComment line)
  if text = [] then some none
  else
    let mnemonic := text.takeWhile (· != ' ')
    let rest := trimBlanks (text.dropWhile (· != ' '))
    match rest with
    | '-' :: '>' :: v => (number (trimBlanks v)).map (fun n => some ⟨mnemonic, [], some n⟩)
    | _ => (numberList rest).map (fun ns => some ⟨mnemonic, ns, none⟩)

/-- An operand: 0..255 (R47). -/
def byteOf (n : Nat) : Option Byte := if n < 256 then some (BitVec.ofNat 8 n) else none

/-- A line without operands. -/
def withNone (ns : List Nat) (l : TraceLine) : Option TraceLine :=
  match ns with
  | [] => some l
  | _ => none

/-- A line with one operand. -/
def withOne (ns : List Nat) (f : Byte → TraceLine) : Option TraceLine :=
  match ns with
  | [v] => (byteOf v).map f
  | _ => none

/-- A line with three operands, in the order R, G, B (R47). -/
def withThree (ns : List Nat) (f : Byte → Byte → Byte → TraceLine) : Option TraceLine :=
  match ns with
  | [r, g, b] => match byteOf r, byteOf g, byteOf b with
    | some r, some g, some b => some (f r g b)
    | _, _, _ => none
  | _ => none

/-- Look the mnemonic up (R47, R48). Only `RD_AMB` may state a returned value; the count of `TICKS` has no bound. -/
def lookUpLine (l : RawLine) : Option TraceLine :=
  if l.mnemonic = "RD_AMB".toList then
    match l.stated with
    | none => withNone l.operands (.op .rdAmb)
    | some v => withOne (v :: l.operands) .readIs
  else if l.stated ≠ none then none
  else if l.mnemonic = "TICK".toList then withNone l.operands (.op .tick)
  else if l.mnemonic = "SAMPLE".toList then withOne l.operands (fun v => .op (.sample v))
  else if l.mnemonic = "WR_R".toList then withOne l.operands (fun v => .op (.wrR v))
  else if l.mnemonic = "WR_G".toList then withOne l.operands (fun v => .op (.wrG v))
  else if l.mnemonic = "WR_B".toList then withOne l.operands (fun v => .op (.wrB v))
  else if l.mnemonic = "WR_RGB".toList then withThree l.operands (fun r g b => .op (.wrRgb r g b))
  else if l.mnemonic = "RESET".toList then withNone l.operands (.op .reset)
  else if l.mnemonic = "TICKS".toList then
    match l.operands with
    | [n] => some (.ticks n)
    | _ => none
  else if l.mnemonic = "FRAME".toList then withNone l.operands .frame
  else if l.mnemonic = "SET_RGB".toList then withThree l.operands .setRgb
  else if l.mnemonic = "BAD_ACCESS".toList then withNone l.operands .badAccess
  else none

/-- One line of text: `some none` is a blank line, `none` is no line of a trace. -/
def parseLine (line : List Char) : Option (Option TraceLine) :=
  match rawLine line with
  | none => none
  | some none => some none
  | some (some l) => (lookUpLine l).map some

/-- A trace: one operation a line, blank lines ignored (R47). -/
def parseTrace (text : List Char) : Option (List TraceLine) :=
  ((splitAtChar '\n' text).mapM parseLine).map (fun ls => ls.filterMap id)

/-- What a line stands for (R48). `BAD_ACCESS` is a refused host access; which one makes no difference (log 15). -/
def TraceLine.expand (l : TraceLine) : List Input :=
  match l with
  | .op i         => [.word (encode i)]
  | .readIs _     => [.word (encode .rdAmb)]
  | .ticks n      => List.replicate n (.word (encode .tick))
  | .frame        => List.replicate frameTicks (.word (encode .tick))
  | .setRgb r g b => [.word (encode (.wrR r)), .word (encode (.wrG g)), .word (encode (.wrB b))]
  | .badAccess    => [.bus (.read 0 1)]

/-- For each `RD_AMB` of a line, the value that the line states, if any (R47, R49). -/
def TraceLine.stated (l : TraceLine) : List (Option Byte) :=
  match l with
  | .op i         => match i with
    | .rdAmb => [none]
    | .tick | .sample _ | .wrR _ | .wrG _ | .wrB _ | .wrRgb _ _ _ | .reset => []
  | .readIs v     => [some v]
  | .ticks _      => []
  | .frame        => []
  | .setRgb _ _ _ => []
  | .badAccess    => []

end Sys2Proof.Machine
end

