-- ==== Sys2Proof/Machine/Run.lean ====
section
/-! DEFINITION. Runs: operations performed one after the other, the events of `input` performed by `step`, and traces that
state returned values. -/

namespace Sys2Proof.Machine

/-- Perform operations in order, stopping at the first that gives no next state. -/
def runOps : List Instr → State → Host.Outcome State Fault Refusal
  | [], s => .next s
  | i :: is, s =>
    match exec i s with
    | .next t    => runOps is t
    | .fault r   => .fault r
    | .refused r => .refused r

/-- `n` steps of the machine. -/
def runSteps (n : Nat) (s : State) : Host.Outcome State Fault Refusal := Host.Core.run core n s

/-- What `f` sees after each `TICK` of a run, in order: one value for each interval that begins in it (R8 *Interval k*). -/
def afterTicks {α : Type} (f : Block → α) : List Instr → State → List α
  | [], _ => []
  | i :: is, s =>
    match exec i s with
    | .next t    => if i = .tick then f t.block :: afterTicks f is t else afterTicks f is t
    | .fault _   => []
    | .refused _ => []

/-- The returned values are those stated, where one is stated (R47). Both lists are oldest first. -/
def valuesAgree : List (Option Byte) → List Byte → Bool
  | [], [] => true
  | none :: ss, _ :: vs => valuesAgree ss vs
  | some v :: ss, w :: vs => v == w && valuesAgree ss vs
  | _, _ => false

/-- A trace, run from a state, is not refused and returns the values it states (R47, R49, R82). -/
def traceHolds (lines : List TraceLine) (s : State) : Bool :=
  let events := lines.flatMap TraceLine.expand
  let stated := lines.flatMap TraceLine.stated
  match runSteps events.length { s with input := events } with
  | .next t    => valuesAgree stated (t.record.take stated.length).reverse
  | .fault _   => false
  | .refused _ => false

end Sys2Proof.Machine
end

