-- ==== Sys2Proof/Safety.lean ====
section
/-! DEFINITION. The terms in which claims about runs are made: the output invariant (R20), what a run writes, and fairness (R104). -/

namespace Sys2Proof.Machine

/-- The output invariant: `out[c] == ON` if and only if `DUTY < l[c]`, for each channel (R20). -/
def OutputInvariant (b : Block) : Prop :=
  ∀ c : Channel, b.out.get c = ON ↔ b.duty < b.l.get c

/-- The reading that an operation stores, if it is a `SAMPLE`. -/
def reading (i : Instr) : Option Byte :=
  match i with
  | .sample v => some v
  | .tick | .wrR _ | .wrG _ | .wrB _ | .wrRgb _ _ _ | .rdAmb | .reset => none

/-- The value that an operation of the host writes to a channel, if it writes that channel. -/
def written (c : Channel) (i : Instr) : Option Byte :=
  match i with
  | .wrR v       => if c = .red then some v else none
  | .wrG v       => if c = .green then some v else none
  | .wrB v       => if c = .blue then some v else none
  | .wrRgb r g b => some (Rgb.get ⟨r, g, b⟩ c)
  | .tick | .sample _ | .rdAmb | .reset => none

/-- Whether an operation is one of the four intensity writes. -/
def isWrite (i : Instr) : Bool :=
  match i with
  | .wrR _ | .wrG _ | .wrB _ | .wrRgb _ _ _ => true
  | .tick | .sample _ | .rdAmb | .reset => false

/-- Whether an operation concerns the light reading alone: `SAMPLE` and `RD_AMB`. -/
def isAboutReading (i : Instr) : Bool :=
  match i with
  | .sample _ | .rdAmb => true
  | .tick | .wrR _ | .wrG _ | .wrB _ | .wrRgb _ _ _ | .reset => false

/-- The last reading stored in a run, if any. -/
def lastReading (ops : List Instr) : Option Byte := (ops.filterMap reading).getLast?

/-- The last value written to a channel in a run, if any. -/
def lastWritten (c : Channel) (ops : List Instr) : Option Byte := (ops.filterMap (written c)).getLast?

/-- The number of `TICK`s in a run. -/
def tickCount (ops : List Instr) : Nat := ops.count .tick

/-- No `RESET` in a run. -/
abbrev NoReset (ops : List Instr) : Prop := .reset ∉ ops

/-- No intensity write in a run. -/
abbrev NoWrite (ops : List Instr) : Prop := ∀ i ∈ ops, isWrite i = false

/-- The first `n` operations of an endless run. -/
def firstOps (σ : Nat → Instr) (n : Nat) : List Instr := (List.range n).map σ

/-- Fairness: after every point of an endless run there is a later `TICK` and a later `SAMPLE` (R104). A premise of
liveness claims only: the machine does not enforce it (log 20). -/
def Fair (σ : Nat → Instr) : Prop :=
  ∀ n, (∃ m, n ≤ m ∧ σ m = .tick) ∧ (∃ m v, n ≤ m ∧ σ m = .sample v)

end Sys2Proof.Machine
end

