-- ==== Sys2Proof/Certificates/Slice0/Obligations.lean ====
section
/-! DEFINITION. The statements for the provers. "R<n>" is a rule of spec/; a statement that rests on a rule the spec marks as
derived says so and has basis 'derived'. -/

open Sys2Proof Sys2Proof.Machine

/-! ## Event words (30_encoding.md) -/

/-- The words of 95_test_vectors.md section 2.6, T-E1 to T-E9, decode to the operations written beside them. -/
def Obligations.TableWordsDecode : Prop :=
  decode 0x10000000#32 = .ok .tick ∧
  decode 0x20000090#32 = .ok (.sample 0x90#8) ∧
  decode 0x300000FC#32 = .ok (.wrR 252#8) ∧
  decode 0x40000000#32 = .ok (.wrG 0#8) ∧
  decode 0x500000FF#32 = .ok (.wrB 255#8) ∧
  decode 0x601E140A#32 = .ok (.wrRgb 10#8 20#8 30#8) ∧
  decode 0x60FFFFFF#32 = .ok (.wrRgb 255#8 255#8 255#8) ∧
  decode 0x70000000#32 = .ok .rdAmb ∧
  decode 0xF0000000#32 = .ok .reset

/-- R45: `decode(encode(o)) = o` for every operation, and `encode(decode(e)) = e` for every word that is not refused. -/
def Obligations.DecodeAndEncodeAreInverse : Prop :=
  (∀ i : Instr, decode (encode i) = .ok i) ∧
  (∀ (e : Word) (i : Instr), decode e = .ok i → encode i = e)

/-- R45, Counts: 16,778,243 words spell an operation. -/
def Obligations.LegalWordsAreCounted : Prop :=
  Nat.card { e : Word // ∃ i, decode e = .ok i } = 16778243

/-- R40: a word spells the operation of a row exactly when `(e AND mask) == match`; the row names the operation's `op`
value, its format and its agent. -/
def Obligations.MaskAndMatchDecideTheOperation : Prop :=
  (∀ e : Word,
    (decode e = .ok .tick ↔ e &&& 0xFFFFFFFF#32 = 0x10000000#32) ∧
    ((∃ v, decode e = .ok (.sample v)) ↔ e &&& 0xFFFFFF00#32 = 0x20000000#32) ∧
    ((∃ v, decode e = .ok (.wrR v)) ↔ e &&& 0xFFFFFF00#32 = 0x30000000#32) ∧
    ((∃ v, decode e = .ok (.wrG v)) ↔ e &&& 0xFFFFFF00#32 = 0x40000000#32) ∧
    ((∃ v, decode e = .ok (.wrB v)) ↔ e &&& 0xFFFFFF00#32 = 0x50000000#32) ∧
    ((∃ r g b, decode e = .ok (.wrRgb r g b)) ↔ e &&& 0xFF000000#32 = 0x60000000#32) ∧
    (decode e = .ok .rdAmb ↔ e &&& 0xFFFFFFFF#32 = 0x70000000#32) ∧
    (decode e = .ok .reset ↔ e &&& 0xFFFFFFFF#32 = 0xF0000000#32)) ∧
  (∀ (e : Word) (i : Instr), decode e = .ok i → e.extractLsb' 28 4 = i.row.opcode ∧ i.row.format.payloadOk e = true) ∧
  (∀ v r g b : Byte,
    Instr.agent .tick = .timer ∧ Instr.agent (.sample v) = .converter ∧ Instr.agent (.wrR v) = .host ∧
    Instr.agent (.wrG v) = .host ∧ Instr.agent (.wrB v) = .host ∧ Instr.agent (.wrRgb r g b) = .host ∧
    Instr.agent .rdAmb = .host ∧ Instr.agent .reset = .resetSource)

/-- R41: an operand is one payload byte as it is, and all 256 values of every operand are legal. -/
def Obligations.OperandsArePayloadBytes : Prop :=
  (∀ (e : Word) (v : Byte),
    decode e = .ok (.sample v) ∨ decode e = .ok (.wrR v) ∨ decode e = .ok (.wrG v) ∨ decode e = .ok (.wrB v) →
      v = e.extractLsb' 0 8) ∧
  (∀ (e : Word) (r g b : Byte), decode e = .ok (.wrRgb r g b) →
      r = e.extractLsb' 0 8 ∧ g = e.extractLsb' 8 8 ∧ b = e.extractLsb' 16 8) ∧
  (∀ v r g b : Byte,
    decode (0x20000000#32 + v.setWidth 32) = .ok (.sample v) ∧
    decode (0x30000000#32 + v.setWidth 32) = .ok (.wrR v) ∧
    decode (0x40000000#32 + v.setWidth 32) = .ok (.wrG v) ∧
    decode (0x50000000#32 + v.setWidth 32) = .ok (.wrB v) ∧
    decode (0x60000000#32 + b.setWidth 32 * 65536#32 + g.setWidth 32 * 256#32 + r.setWidth 32) = .ok (.wrRgb r g b))

/-- R42, R43, R45, R82: a step refuses with `ReservedBits` and with `ReservedOp` exactly on their own causes; with `BadAccess`
only on an ill-formed host access, and always where that access is the next event; and it refuses with no other name. The
payload bytes that a format does not use are bits 23:0 in format N and bits 23:8 in format B (R39). -/
def Obligations.StepRefusesExactlyOnTheNamedCauses : Prop :=
  (∀ s : State, step s = .refused .reservedBits ↔
    ∃ e rest, s.input = .word e :: rest ∧
      (e.extractLsb' 24 4 ≠ 0#4 ∨
       ((e.extractLsb' 28 4 = 0x1#4 ∨ e.extractLsb' 28 4 = 0x7#4 ∨ e.extractLsb' 28 4 = 0xF#4) ∧ e.extractLsb' 0 24 ≠ 0#24) ∨
       ((e.extractLsb' 28 4 = 0x2#4 ∨ e.extractLsb' 28 4 = 0x3#4 ∨ e.extractLsb' 28 4 = 0x4#4 ∨ e.extractLsb' 28 4 = 0x5#4) ∧
        e.extractLsb' 8 16 ≠ 0#16))) ∧
  (∀ s : State, step s = .refused .reservedOp ↔
    ∃ e rest, s.input = .word e :: rest ∧ e.extractLsb' 24 4 = 0#4 ∧
      (e.extractLsb' 28 4 = 0x0#4 ∨ (0x8#4 ≤ e.extractLsb' 28 4 ∧ e.extractLsb' 28 4 ≤ 0xE#4))) ∧
  (∀ s : State, step s = .refused .badAccess → ∃ a : BusAccess, a.wellFormed = false ∧
    ((∃ rest, s.input = .bus a :: rest) ∨ (∃ p rest, s.input = .pins p :: rest ∧ p.hReq = true ∧ p.access = a))) ∧
  (∀ (s : State) (a : BusAccess) (rest : List Input), s.input = .bus a :: rest →
    (step s = .refused .badAccess ↔ a.wellFormed = false)) ∧
  (∀ (s : State) (m : String), step s ≠ .refused (.notModelled m))

/-- The checks of WellFormed.lean pass exactly the words, the accesses and the lines of text that have a meaning (R42, R43; R24
to R27; R47, R48 with the reading of log 14). -/
def Obligations.WellFormedTermsAreThoseWithAMeaning : Prop :=
  (∀ e : Word, wordWellFormed e = true ↔ ∃ i, decode e = .ok i) ∧
  (∀ a : BusAccess, a.wellFormed = true ↔ ∃ i, decodeAccess a = .ok i) ∧
  (∀ l : RawLine, l.wellFormed = true ↔ ∃ t, lookUpLine l = some t)

/-! ## The operations, one next state each -/

/-- R51, the operation as a function from the state before to the state after, from every state; and its word. -/
def Obligations.TickNextState : Prop :=
  decode 0x10000000#32 = .ok .tick ∧
  ∀ s : State, ∃ t, exec .tick s = .next t ∧
    t.block.duty = s.block.duty + 1#8 ∧
    (∀ c, t.block.l.get c = if t.block.duty = 0#8 then s.block.x.get c else s.block.l.get c) ∧
    (∀ c, t.block.out.get c =
      if t.block.duty = 0#8 ∧ 0#8 < t.block.l.get c then ON
      else if t.block.l.get c = t.block.duty then OFF
      else s.block.out.get c) ∧
    t.block.x = s.block.x ∧ t.block.ambient = s.block.ambient ∧
    t.input = s.input ∧ t.record = s.record ∧ t.draws = s.draws ∧ t.ties = s.ties

/-- R63: `SAMPLE v` stores `v` in `AMBIENT` and changes nothing else; and its word. -/
def Obligations.SampleNextState : Prop :=
  ∀ (v : Byte) (s : State),
    decode (0x20000000#32 + v.setWidth 32) = .ok (.sample v) ∧
    exec (.sample v) s = .next { s with block := { s.block with ambient := v } }

/-- R69, R70, R71: a byte write changes its own intensity register and nothing else; its word; its bus form. -/
def Obligations.ByteWriteNextState : Prop :=
  ∀ (v : Byte) (s : State),
    (decode (0x30000000#32 + v.setWidth 32) = .ok (.wrR v) ∧ decodeAccess (.write 0 1 (v.setWidth 32)) = .ok (.wrR v) ∧
      exec (.wrR v) s = .next { s with block := { s.block with x := { s.block.x with r := v } } }) ∧
    (decode (0x40000000#32 + v.setWidth 32) = .ok (.wrG v) ∧ decodeAccess (.write 1 1 (v.setWidth 32)) = .ok (.wrG v) ∧
      exec (.wrG v) s = .next { s with block := { s.block with x := { s.block.x with g := v } } }) ∧
    (decode (0x50000000#32 + v.setWidth 32) = .ok (.wrB v) ∧ decodeAccess (.write 2 1 (v.setWidth 32)) = .ok (.wrB v) ∧
      exec (.wrB v) s = .next { s with block := { s.block with x := { s.block.x with b := v } } })

/-- R72: `WR_RGB` writes all three intensity registers in one step and nothing else; its word; its bus form, whatever byte
stands in data bits 31:24; it has the effect of the three byte writes in any order when nothing falls between them. -/
def Obligations.TripleWriteNextState : Prop :=
  ∀ (r g b : Byte) (s : State),
    decode (0x60000000#32 + b.setWidth 32 * 65536#32 + g.setWidth 32 * 256#32 + r.setWidth 32) = .ok (.wrRgb r g b) ∧
    (∀ w : Word, w.extractLsb' 0 8 = r → w.extractLsb' 8 8 = g → w.extractLsb' 16 8 = b →
      decodeAccess (.write 0 4 w) = .ok (.wrRgb r g b)) ∧
    exec (.wrRgb r g b) s = .next { s with block := { s.block with x := ⟨r, g, b⟩ } } ∧
    (∀ ops : List Instr, ops.Perm [.wrR r, .wrG g, .wrB b] → runOps ops s = exec (.wrRgb r g b) s)

/-- R73: `RD_AMB` returns `AMBIENT` and changes no register; its word; its bus form; two reads with no `SAMPLE` between
return the same value. The returned value joins the record of the run (R49; the record is the model's, log 3). -/
def Obligations.ReadNextState : Prop :=
  decode 0x70000000#32 = .ok .rdAmb ∧ decodeAccess (.read 3 1) = .ok .rdAmb ∧
  ∀ s : State,
    exec .rdAmb s = .next { s with record := s.block.ambient :: s.record } ∧
    runOps [.rdAmb, .rdAmb] s = .next { s with record := s.block.ambient :: s.block.ambient :: s.record }

/-- R93: `RESET` writes all eleven registers, from any state; two in a row leave the state of one up to the draw; its word.
Basis 'derived': `DUTY_RESET` and the draws of `AMBIENT_RESET` are constants without a value, and that the draws are numbered
by `draws` is the model's choice (log 5), as is the record of returned values, which a `RESET` keeps (log 3). -/
def Obligations.ResetNextState : Prop :=
  decode 0xF0000000#32 = .ok .reset ∧
  ∀ s : State,
    exec .reset s = .next { s with
      block :=
        { x := ⟨0#8, 0#8, 0#8⟩, l := ⟨0#8, 0#8, 0#8⟩, duty := Config.dutyReset, out := ⟨OFF, OFF, OFF⟩,
          ambient := Config.ambientReset s.draws }
      draws := s.draws + 1 } ∧
    ∃ t u, exec .reset s = .next t ∧ runOps [.reset, .reset] s = .next u ∧
      u.block = { t.block with ambient := Config.ambientReset (s.draws + 1) }

/-- R21: the registers right after reset, and after a `RESET` from any state, where the reading is a fresh draw;
both event sources are live from then on. Basis 'derived': that the draws are numbered, and that State.reset has taken number 0,
is the model's choice (log 5). -/
def Obligations.RegistersAfterReset : Prop :=
  State.reset.block.x = ⟨0#8, 0#8, 0#8⟩ ∧ State.reset.block.l = ⟨0#8, 0#8, 0#8⟩ ∧
  State.reset.block.duty = Config.dutyReset ∧ State.reset.block.out = ⟨OFF, OFF, OFF⟩ ∧
  State.reset.block.ambient = Config.ambientReset 0 ∧
  (∀ s : State, ∃ t, exec .reset s = .next t ∧ t.block = { State.reset.block with ambient := Config.ambientReset s.draws }) ∧
  (∀ v : Byte, ∃ t u, exec .tick State.reset = .next t ∧ exec (.sample v) State.reset = .next u)

/-- R78: every operation, and so every run of operations, has a next state from every state. -/
def Obligations.EveryRunCompletes : Prop :=
  (∀ (i : Instr) (s : State), ∃ t, exec i s = .next t) ∧
  (∀ (ops : List Instr) (s : State), ∃ t, runOps ops s = .next t)

/-- The frame of every operation, by agent (10_state.md sections 1 and 6): T touches only `DUTY`, `l` and `out`; A only
`AMBIENT`; H only the intensities it names; X leaves the model's own fields but for the draw. Only `RD_AMB` returns a value. -/
def Obligations.OperationsTouchOnlyTheirOwnRegisters : Prop :=
  ∀ (i : Instr) (s : State), ∃ t, exec i s = .next t ∧
    (i.agent = .timer → t.block.x = s.block.x ∧ t.block.ambient = s.block.ambient) ∧
    (i.agent = .converter → t.block = { s.block with ambient := t.block.ambient }) ∧
    (i.agent = .host → t.block = { s.block with x := t.block.x }) ∧
    (∀ c, i ≠ .reset → written c i = none → t.block.x.get c = s.block.x.get c) ∧
    (i ≠ .rdAmb → t.record = s.record) ∧
    (i ≠ .reset → t.draws = s.draws) ∧
    t.input = s.input ∧ t.ties = s.ties

/-! ## Steps: words, host accesses, pins, traces -/

/-- A step takes the next event and performs its operation (R30, R84): an event word, a host access, or nothing where no
event is waiting (that the machine then stays as it is, is the model's, log 2). -/
def Obligations.StepPerformsTheNextEvent : Prop :=
  (∀ (s : State) (e : Word) (rest : List Input) (i : Instr), s.input = .word e :: rest → decode e = .ok i →
    step s = exec i { s with input := rest }) ∧
  (∀ (s : State) (a : BusAccess) (rest : List Input) (i : Instr), s.input = .bus a :: rest → decodeAccess a = .ok i →
    step s = exec i { s with input := rest }) ∧
  (∀ s : State, s.input = [] → step s = .next s)

/-- R24 to R27: the effect of each of the five host accesses, and the refusal of every other. Basis 'derived': that a byte
write ignores data bits 31:8 is the model's reading of the bus (log 9), that a refusal is an outcome with no next state is the
model's (log 8), and the returned value joins the model's record (log 3). -/
def Obligations.HostWindowAccesses : Prop :=
  ∀ (s : State) (rest : List Input),
    (∀ w : Word, s.input = .bus (.write 0 1 w) :: rest →
      step s = .next { s with input := rest, block := { s.block with x := { s.block.x with r := w.extractLsb' 0 8 } } }) ∧
    (∀ w : Word, s.input = .bus (.write 1 1 w) :: rest →
      step s = .next { s with input := rest, block := { s.block with x := { s.block.x with g := w.extractLsb' 0 8 } } }) ∧
    (∀ w : Word, s.input = .bus (.write 2 1 w) :: rest →
      step s = .next { s with input := rest, block := { s.block with x := { s.block.x with b := w.extractLsb' 0 8 } } }) ∧
    (∀ w : Word, s.input = .bus (.write 0 4 w) :: rest →
      step s = .next { s with input := rest, block :=
        { s.block with x := ⟨w.extractLsb' 0 8, w.extractLsb' 8 8, w.extractLsb' 16 8⟩ } }) ∧
    (s.input = .bus (.read 3 1) :: rest →
      step s = .next { s with input := rest, record := s.block.ambient :: s.record }) ∧
    (∀ a : BusAccess,
      (∀ w, a ≠ .write 0 1 w) → (∀ w, a ≠ .write 1 1 w) → (∀ w, a ≠ .write 2 1 w) → (∀ w, a ≠ .write 0 4 w) → a ≠ .read 3 1 →
      s.input = .bus a :: rest → step s = .refused .badAccess)

/-- R28: a read changes no register, and two reads with no `SAMPLE` and no `RESET` between them return the same value; a write
gives the registers it names their values and changes no other; writing the value a register already holds changes nothing.
Basis 'derived': that no `RESET` falls between the reads is a premise added here (a `RESET` writes `AMBIENT`, R93), and the
returned values are compared through the model's reading of `h_rdata` (log 3). -/
def Obligations.AccessesHaveNoSideEffect : Prop :=
  ∀ s : State,
    (∃ t, exec .rdAmb s = .next t ∧ t = { s with record := t.record } ∧
      ∀ ops : List Instr, NoReset ops → (∀ i ∈ ops, reading i = none) →
        ∃ u v, runOps ops t = .next u ∧ exec .rdAmb u = .next v ∧ v.hRdata = t.hRdata) ∧
    exec (.wrR s.block.x.r) s = .next s ∧
    exec (.wrG s.block.x.g) s = .next s ∧
    exec (.wrB s.block.x.b) s = .next s ∧
    exec (.wrRgb s.block.x.r s.block.x.g s.block.x.b) s = .next s ∧
    (∀ i : Instr, isWrite i = true → ∃ t, exec i s = .next t ∧
      (∀ c, written c i = none → t.block.x.get c = s.block.x.get c) ∧
      (∀ c v, written c i = some v → t.block.x.get c = v) ∧
      t.block.l = s.block.l ∧ t.block.duty = s.block.duty ∧ t.block.out = s.block.out ∧ t.block.ambient = s.block.ambient ∧
      t = { s with block := t.block })

/-- R46: each operation is one pulse at the ports; every other combination of the host's pins is refused. -/
def Obligations.OnePulseIsOneOperation : Prop :=
  ∀ (s : State) (p : Pins) (rest : List Input), s.input = .pins p :: rest →
    (p.rst = true ∧ p.tick = false ∧ p.adcDone = false ∧ p.hReq = false → step s = exec .reset { s with input := rest }) ∧
    (p.rst = false ∧ p.tick = true ∧ p.adcDone = false ∧ p.hReq = false → step s = exec .tick { s with input := rest }) ∧
    (p.rst = false ∧ p.tick = false ∧ p.adcDone = true ∧ p.hReq = false →
      step s = exec (.sample p.adcData) { s with input := rest }) ∧
    (p.rst = false ∧ p.tick = false ∧ p.adcDone = false ∧ p.hReq = true →
      (p.hWe = true ∧ p.hSize = false ∧ p.hAddr = 0#2 → step s = exec (.wrR (p.hWdata.extractLsb' 0 8)) { s with input := rest }) ∧
      (p.hWe = true ∧ p.hSize = false ∧ p.hAddr = 1#2 → step s = exec (.wrG (p.hWdata.extractLsb' 0 8)) { s with input := rest }) ∧
      (p.hWe = true ∧ p.hSize = false ∧ p.hAddr = 2#2 → step s = exec (.wrB (p.hWdata.extractLsb' 0 8)) { s with input := rest }) ∧
      (p.hWe = true ∧ p.hSize = true ∧ p.hAddr = 0#2 →
        step s = exec (.wrRgb (p.hWdata.extractLsb' 0 8) (p.hWdata.extractLsb' 8 8) (p.hWdata.extractLsb' 16 8))
          { s with input := rest }) ∧
      (p.hWe = false ∧ p.hSize = false ∧ p.hAddr = 3#2 → step s = exec .rdAmb { s with input := rest }) ∧
      ((p.hWe = true ∧ p.hSize = false ∧ p.hAddr = 3#2) ∨ (p.hWe = true ∧ p.hSize = true ∧ p.hAddr ≠ 0#2) ∨
       (p.hWe = false ∧ p.hSize = false ∧ p.hAddr ≠ 3#2) ∨ (p.hWe = false ∧ p.hSize = true) → step s = .refused .badAccess))

/-- Pulses presented at the same instant are performed each exactly once, in some order (R30, R86): the order comes from a
free value (log 11), so nothing says which. -/
def Obligations.SimultaneousPulsesArePerformedOnceEach : Prop :=
  ∀ (s : State) (p : Pins) (rest : List Input), s.input = .pins p :: rest → p.pulses ≠ [] →
    (∀ q ∈ p.pulses, ∃ i, p.operation q = .ok i) →
    ∃ ops : List Instr, (ops.map Except.ok).Perm (p.pulses.map p.operation) ∧
      runSteps p.pulses.length s = runOps ops { s with input := rest, ties := s.ties + (p.pulses.length - 1) }

/-- A trace written as event words runs as the operations that the words spell (R44: every word is decoded on its own; R86:
every event exactly once). -/
def Obligations.WordsRunAsTheirOperations : Prop :=
  ∀ (ops : List Instr) (s : State) (rest : List Input), s.input = ops.map (fun i => .word (encode i)) ++ rest →
    runSteps ops.length s = runOps ops { s with input := rest }

/-- R48: what the four pseudo-operations of the trace syntax stand for. -/
def Obligations.PseudoOperationsExpand : Prop :=
  ∀ (s : State) (rest : List Input),
    (∀ n, s.input = (TraceLine.ticks n).expand ++ rest →
      runSteps n s = runOps (List.replicate n .tick) { s with input := rest }) ∧
    (s.input = TraceLine.frame.expand ++ rest →
      runSteps 256 s = runOps (List.replicate 256 .tick) { s with input := rest }) ∧
    (∀ r g b, s.input = (TraceLine.setRgb r g b).expand ++ rest →
      runSteps 3 s = runOps [.wrR r, .wrG g, .wrB b] { s with input := rest }) ∧
    (s.input = TraceLine.badAccess.expand ++ rest → step s = .refused .badAccess)

/-! ## The counter, the latch and the lines -/

/-- R52: the counter goes up by one and from 255 to 0; after any 256 `TICK`s with no `RESET` between them it has its
starting value again and has taken each of the 256 values exactly once, whatever else falls between the ticks. -/
def Obligations.CounterTakesEachValueOncePerFrame : Prop :=
  (∀ s : State, ∃ t, exec .tick s = .next t ∧
    (s.block.duty ≠ 255#8 → t.block.duty.toNat = s.block.duty.toNat + 1) ∧ (s.block.duty = 255#8 → t.block.duty = 0#8)) ∧
  (∀ (ops : List Instr) (s : State), NoReset ops → tickCount ops = 256 →
    ∃ t, runOps ops s = .next t ∧ t.block.duty = s.block.duty ∧
      ∀ d : Byte, (afterTicks Block.duty ops s).count d = 1)

/-- R54: the latch happens on the wrap tick and on no other, copies all three registers in one step, and so the latched
values of a run are either those it began with or three values that stood in the registers together. -/
def Obligations.LatchIsOneSnapshotOnTheWrapTick : Prop :=
  (∀ s : State, ∃ t, exec .tick s = .next t ∧
    (s.block.duty = 255#8 → t.block.l = s.block.x) ∧ (s.block.duty ≠ 255#8 → t.block.l = s.block.l)) ∧
  (∀ (ops : List Instr) (s : State), NoReset ops → ∃ t, runOps ops s = .next t ∧
    (t.block.l = s.block.l ∨
     ∃ pre post u, ops = pre ++ .tick :: post ∧ runOps pre s = .next u ∧ u.block.duty = 255#8 ∧ u.block.x = t.block.l))

/-- The duty property, part (a) (40_pwm_renderer.md section 5, derived there): whatever falls among the ticks of a frame,
during interval `k` the line is ON if and only if `k` is below the value latched at the frame's start. No premise on the
levels of the lines. -/
def Obligations.LineIsOnBelowItsLatchedValue : Prop :=
  ∀ (s : State) (ops : List Instr), s.block.duty = 255#8 → NoReset ops → tickCount ops ≤ 255 →
    ∃ t, runOps (.tick :: ops) s = .next t ∧
      ∀ c, t.block.out.get c = ON ↔ tickCount ops < (s.block.x.get c).toNat

/-- The duty property, part (b) (40_pwm_renderer.md section 5): over a whole frame the line is ON for exactly `V` of the 256
intervals, the first `V` of them. -/
def Obligations.LineIsOnForExactlyItsLatchedValue : Prop :=
  ∀ (s : State) (ops : List Instr) (c : Channel), s.block.duty = 255#8 → NoReset ops → tickCount ops = 255 →
    afterTicks (fun b => b.out.get c) (.tick :: ops) s =
      List.replicate (s.block.x.get c).toNat ON ++ List.replicate (256 - (s.block.x.get c).toNat) OFF

/-- The three channels are independent (40_pwm_renderer.md section 5, derived there): two states that agree on the counter and
on one channel agree on them after any run, whatever the other channels hold. -/
def Obligations.ChannelsAreIndependent : Prop :=
  ∀ (c : Channel) (ops : List Instr) (s₁ s₂ : State),
    s₁.block.duty = s₂.block.duty → s₁.block.x.get c = s₂.block.x.get c → s₁.block.l.get c = s₂.block.l.get c →
    s₁.block.out.get c = s₂.block.out.get c →
    ∃ t₁ t₂, runOps ops s₁ = .next t₁ ∧ runOps ops s₂ = .next t₂ ∧
      t₁.block.duty = t₂.block.duty ∧ t₁.block.x.get c = t₂.block.x.get c ∧ t₁.block.l.get c = t₂.block.l.get c ∧
      t₁.block.out.get c = t₂.block.out.get c

/-- R32, R58: up to the next wrap tick the lines do not depend on the writes, however many there are; at the wrap tick only
the values then standing are latched; two runs in which the same values stand there have the same lines ever after. -/
def Obligations.WritesWaitForTheWrapTick : Prop :=
  ∀ (s : State) (as bs : List Instr), NoReset as → NoReset bs → tickCount as = tickCount bs →
    s.block.duty.toNat + tickCount as ≤ 255 →
    ∃ t u, runOps as s = .next t ∧ runOps bs s = .next u ∧
      t.block.out = u.block.out ∧ t.block.l = s.block.l ∧ u.block.l = s.block.l ∧ t.block.duty = u.block.duty ∧
      (t.block.duty = 255#8 →
        (∃ t', exec .tick t = .next t' ∧ t'.block.l = t.block.x) ∧
        (t.block.x = u.block.x → ∀ later : List Instr, ∃ t'' u'',
          runOps (.tick :: later) t = .next t'' ∧ runOps (.tick :: later) u = .next u'' ∧
          t''.block.out = u''.block.out ∧ t''.block.l = u''.block.l))

/-- An observer of the lines learns `DUTY = 0` at an OFF-to-ON edge and `DUTY = l[c]` at an ON-to-OFF edge (10_state.md
section 9, derived there); no operation but `TICK` and `RESET` moves a line. -/
def Obligations.EdgesRevealTheCounter : Prop :=
  ∀ (s : State) (c : Channel),
    (∃ t, exec .tick s = .next t ∧
      (s.block.out.get c = OFF → t.block.out.get c = ON → t.block.duty = 0#8) ∧
      (s.block.out.get c = ON → t.block.out.get c = OFF → t.block.duty = t.block.l.get c)) ∧
    (∀ i : Instr, i ≠ .tick → i ≠ .reset → ∃ t, exec i s = .next t ∧ t.block.out = s.block.out)

/-- The output invariant holds right after reset, for every value of `DUTY_RESET` and every draw (70_reset_and_hazards.md
section 1, derived there). -/
def Obligations.OutputInvariantAtReset : Prop :=
  OutputInvariant State.reset.block ∧
  ∀ dutyReset ambientReset : Byte, OutputInvariant (Block.afterReset dutyReset ambientReset)

/-- Every step keeps the output invariant (10_state.md section 10, derived there), from every state that has it. -/
def Obligations.StepKeepsTheOutputInvariant : Prop :=
  ∀ s t : State, OutputInvariant s.block → step s = .next t → OutputInvariant t.block

/-- In every state reached from a `RESET` by any operations, each line is ON if and only if `DUTY < l[c]` (10_state.md section
10, derived there), whatever state the `RESET` found. -/
def Obligations.LinesFollowTheLatchedValuesAfterAnyReset : Prop :=
  ∀ (pre ops : List Instr) (s : State), ∃ t, runOps (pre ++ .reset :: ops) s = .next t ∧
    ∀ c, t.block.out.get c = ON ↔ t.block.duty < t.block.l.get c

/-! ## Order of events -/

/-- `RD_AMB` returns the value of the last `SAMPLE` before it, or the draw of the last `RESET` if there is none since
(20_memory.md section 5, derived there). The numbering of the draws is the model's (log 5). -/
def Obligations.ReadReturnsTheLastReading : Prop :=
  ∀ (pre post : List Instr) (s : State), NoReset post →
    ∃ t, runOps (pre ++ .reset :: (post ++ [.rdAmb])) s = .next t ∧
      t.hRdata = some ((lastReading post).getD (Config.ambientReset (s.draws + pre.count .reset)))

/-- A wrap tick latches for each channel the value last written to it, or 0 if there is none since the last `RESET`
(20_memory.md section 5, derived there). -/
def Obligations.WrapTickLatchesTheLastWrite : Prop :=
  ∀ (pre post : List Instr) (s : State), NoReset post →
    ∃ t u, runOps (pre ++ .reset :: post) s = .next t ∧ exec .tick t = .next u ∧
      (t.block.duty = 255#8 → ∀ c, u.block.l.get c = (lastWritten c post).getD 0#8)

/-- R64: one cell and no queue. Of the readings between two reads the second returns the last, and the first one's value
again if there was none; and nothing records that a reading was lost: after `SAMPLE v`, `SAMPLE w` the whole state is the one
after `SAMPLE w`. Basis 'derived': the returned values are read off the model's record, newest first (log 3), and that no
`RESET` falls between the reads is a premise added here. -/
def Obligations.LatestReadingWins : Prop :=
  ∀ s : State,
    (∀ ops : List Instr, NoReset ops → .rdAmb ∉ ops →
      ∃ t, runOps (.rdAmb :: (ops ++ [.rdAmb])) s = .next t ∧
        t.record = (lastReading ops).getD s.block.ambient :: s.block.ambient :: s.record) ∧
    (∀ v w : Byte, ∃ t, runOps [.sample v, .sample w] s = .next t ∧ exec (.sample w) s = .next t)

/-- The pairs of operations that commute: the same final state and the same returned values, from every state (20_memory.md
section 5, derived there). -/
def Obligations.DisjointOperationsCommute : Prop :=
  ∀ (s : State) (v w r g b : Byte),
    runOps [.tick, .sample v] s = runOps [.sample v, .tick] s ∧
    runOps [.tick, .rdAmb] s = runOps [.rdAmb, .tick] s ∧
    (∀ i, isWrite i = true → runOps [.sample v, i] s = runOps [i, .sample v] s) ∧
    (∀ i, isWrite i = true → s.block.duty ≠ 255#8 → runOps [.tick, i] s = runOps [i, .tick] s) ∧
    runOps [.wrR v, .wrG w] s = runOps [.wrG w, .wrR v] s ∧
    runOps [.wrR v, .wrB w] s = runOps [.wrB w, .wrR v] s ∧
    runOps [.wrG v, .wrB w] s = runOps [.wrB w, .wrG v] s ∧
    (s.block.duty ≠ 255#8 → runOps [.tick, .wrRgb r g b] s = runOps [.wrRgb r g b, .tick] s)

/-- The pairs whose order can be observed (20_memory.md section 5, derived there): a wrap `TICK` and a write; `SAMPLE` and
`RD_AMB`; two `SAMPLE`s; two writes to the same register; and `RESET` with `TICK`, with `SAMPLE`, with a write and with
`RD_AMB`. The draw that a `RESET` makes has a number, which is the model's (log 5). -/
def Obligations.OtherPairsDoNotCommute : Prop :=
  ∀ (s : State) (v w r g b : Byte),
    (∀ i t, isWrite i = true → exec i s = .next t → t.block.x ≠ s.block.x → s.block.duty = 255#8 →
      runOps [.tick, i] s ≠ runOps [i, .tick] s) ∧
    (v ≠ s.block.ambient → runOps [.sample v, .rdAmb] s ≠ runOps [.rdAmb, .sample v] s) ∧
    (v ≠ w → runOps [.sample v, .sample w] s ≠ runOps [.sample w, .sample v] s) ∧
    (v ≠ w → runOps [.wrR v, .wrR w] s ≠ runOps [.wrR w, .wrR v] s) ∧
    (v ≠ w → runOps [.wrG v, .wrG w] s ≠ runOps [.wrG w, .wrG v] s) ∧
    (v ≠ w → runOps [.wrB v, .wrB w] s ≠ runOps [.wrB w, .wrB v] s) ∧
    (v ≠ r → runOps [.wrRgb r g b, .wrR v] s ≠ runOps [.wrR v, .wrRgb r g b] s) ∧
    (v ≠ g → runOps [.wrRgb r g b, .wrG v] s ≠ runOps [.wrG v, .wrRgb r g b] s) ∧
    (v ≠ b → runOps [.wrRgb r g b, .wrB v] s ≠ runOps [.wrB v, .wrRgb r g b] s) ∧
    (∀ r' g' b' : Byte, (r ≠ r' ∨ g ≠ g' ∨ b ≠ b') →
      runOps [.wrRgb r g b, .wrRgb r' g' b'] s ≠ runOps [.wrRgb r' g' b', .wrRgb r g b] s) ∧
    runOps [.reset, .tick] s ≠ runOps [.tick, .reset] s ∧
    (v ≠ Config.ambientReset s.draws → runOps [.reset, .sample v] s ≠ runOps [.sample v, .reset] s) ∧
    (∀ i c, written c i = some v → v ≠ 0#8 → runOps [.reset, i] s ≠ runOps [i, .reset] s) ∧
    (s.block.ambient ≠ Config.ambientReset s.draws → runOps [.reset, .rdAmb] s ≠ runOps [.rdAmb, .reset] s)

/-- The host learns nothing of the renderer (42_host_access.md section 5; 10_state.md section 9): two runs of the same
operations from states that agree on the reading return the same values, whatever the intensities, the latched values, the
counter and the lines are. That the two states also agree on `draws`, and that equal numbers then draw equal values at a
`RESET` in the run, is the model's choice of how draws are numbered (log 5); of a run without `RESET` it says nothing more. The
returned values are the model's record (log 3). -/
def Obligations.HostLearnsNothingOfTheRenderer : Prop :=
  ∀ (ops : List Instr) (s₁ s₂ : State), s₁.block.ambient = s₂.block.ambient → s₁.record = s₂.record → s₁.draws = s₂.draws →
    ∃ t₁ t₂, runOps ops s₁ = .next t₁ ∧ runOps ops s₂ = .next t₂ ∧ t₁.record = t₂.record ∧
      t₁.block.ambient = t₂.block.ambient

/-- The renderer does not see the sampler (40_pwm_renderer.md section 7, 41_light_sampler.md section 5): taking the samples
and the reads out of a run changes nothing of the intensities, the latched values, the counter and the lines. -/
def Obligations.RendererIgnoresTheSampler : Prop :=
  ∀ (ops : List Instr) (s : State), ∃ t u,
    runOps ops s = .next t ∧
    runOps (ops.filter (fun i => !isAboutReading i)) s = .next u ∧
    t.block = { u.block with ambient := t.block.ambient }

/-! ## Reset and hazards (70_reset_and_hazards.md, sections 1 and 3) -/

/-- The first, partial frame is dark whatever the host writes, and its last tick is tick number `256 − DUTY_RESET`, which
latches what the host has written by then (section 1, derived there). -/
def Obligations.FirstPartialFrameIsDark : Prop :=
  ∀ (s : State) (ops : List Instr), NoReset ops → Config.dutyReset.toNat + tickCount ops ≤ 255 →
    ∃ t u, runOps (.reset :: ops) s = .next t ∧
      t.block.out = ⟨OFF, OFF, OFF⟩ ∧ t.block.l = ⟨0#8, 0#8, 0#8⟩ ∧
      t.block.duty.toNat = Config.dutyReset.toNat + tickCount ops ∧
      exec .tick t = .next u ∧
      (u.block.duty = 0#8 ↔ tickCount ops + 1 = 256 - Config.dutyReset.toNat) ∧
      (u.block.duty = 0#8 → u.block.l = t.block.x)

/-- A written colour reaches the latched registers at tick number `256 − DUTY` after the write, between 1 and 256, and not
before (section 3, derived there from the tick rule). -/
def Obligations.WrittenColourIsLatchedAtTheNextWrap : Prop :=
  ∀ (s : State) (ops : List Instr), NoReset ops → NoWrite ops →
    (tickCount ops < 256 - s.block.duty.toNat → ∃ t, runOps ops s = .next t ∧ t.block.l = s.block.l) ∧
    (tickCount ops = 256 - s.block.duty.toNat → ∃ t, runOps ops s = .next t ∧ t.block.l = s.block.x)

/-- The host's clear does not darken the lines at once: a line that is ON stays ON through the ticks that keep the counter
below its latched value (section 3, derived there; 95_test_vectors.md program P6). -/
def Obligations.ClearDoesNotDarkenALineAtOnce : Prop :=
  ∀ (s : State) (ops : List Instr) (c : Channel), OutputInvariant s.block → NoReset ops →
    s.block.duty.toNat + tickCount ops < (s.block.l.get c).toNat →
    ∃ t, runOps (.wrRgb 0#8 0#8 0#8 :: ops) s = .next t ∧ t.block.out.get c = ON

/-- A colour set by one `WR_RGB` is latched whole or not at all: wherever the ticks fall, what is latched is what was latched
before, the old colour or the new one, and never a mixture (section 3, 20_memory.md section 7). -/
def Obligations.TripleWriteIsNeverLatchedInPart : Prop :=
  ∀ (s : State) (pre post : List Instr) (r g b : Byte), NoReset pre → NoReset post → NoWrite pre → NoWrite post →
    ∃ t, runOps (pre ++ .wrRgb r g b :: post) s = .next t ∧
      (t.block.l = s.block.l ∨ t.block.l = s.block.x ∨ t.block.l = ⟨r, g, b⟩)

/-- A colour set by three byte writes, in any order, with the wrap tick after some of them: the frame is latched with the new
value in the channels written before the tick and the old value in the others, stays latched so and is rendered so through
every interval of the frame, whatever falls in it; with no further write, the wrap tick that ends it latches the whole new
colour and lights by it (section 3). -/
def Obligations.ByteWritesCanBeLatchedInPart : Prop :=
  ∀ (s : State) (pre post ops : List Instr) (r g b : Byte), s.block.duty = 255#8 →
    (pre ++ post).Perm [.wrR r, .wrG g, .wrB b] → NoReset ops → tickCount ops ≤ 255 →
    ∃ t u, runOps (pre ++ .tick :: post) s = .next t ∧
      (∀ c, t.block.l.get c = (lastWritten c pre).getD (s.block.x.get c)) ∧ t.block.x = ⟨r, g, b⟩ ∧
      runOps ops t = .next u ∧ u.block.l = t.block.l ∧
      (∀ c, u.block.out.get c = ON ↔ tickCount ops < (t.block.l.get c).toNat) ∧
      (tickCount ops = 255 → NoWrite ops → ∃ w, exec .tick u = .next w ∧ w.block.l = ⟨r, g, b⟩ ∧
        ∀ c, w.block.out.get c = ON ↔ 0#8 < Rgb.get ⟨r, g, b⟩ c)

/-- Progress under fairness (section 4): in an endless run with no `RESET`, after every point there is a wrap tick, which
latches the intensities standing there, and a `SAMPLE`, which refreshes the reading. That fairness is a premise on the run, in
the form of `Fair`, and nothing the machine enforces, is the model's choice (log 20). -/
def Obligations.FairRunsLatchAndRefresh : Prop :=
  ∀ (σ : Nat → Instr) (s : State), Fair σ → (∀ n, σ n ≠ .reset) → ∀ n,
    (∃ m t u, n ≤ m ∧ σ m = .tick ∧ runOps (firstOps σ m) s = .next t ∧ t.block.duty = 255#8 ∧
      exec .tick t = .next u ∧ u.block.l = t.block.x) ∧
    (∃ m v t, n ≤ m ∧ σ m = .sample v ∧ runOps (firstOps σ (m + 1)) s = .next t ∧ t.block.ambient = v)
end

