-- ==== Sys2Proof/Laws/Config.lean ====
section
/-! SUPPORT. The two timebases are positive, and a frame's length is the reciprocal of the frame rate (R88). -/

namespace Sys2Proof

theorem Rate.value_pos (q : Rate) : 0 < q.value := by
  unfold Rate.value
  positivity

theorem Config.frameTime_mul_frameRate : Config.frameTime * Config.frameRate = 1 := by
  have := Rate.value_pos Config.tickRate
  unfold Config.frameTime Config.frameRate
  field_simp

end Sys2Proof
end

