-- ==== Sys2Proof/Laws/Decode.lean ====
section
/-! SUPPORT. The fields of an event word put together and taken apart (R38). -/

namespace Sys2Proof.Machine

variable (op : BitVec 4) (p2 p1 p0 : Byte) (e : Word)

/-- The number that five fields with `rsv = 0` spell. -/
theorem toNat_joinFields :
    (joinFields op p2 p1 p0).toNat = op.toNat * 2 ^ 28 + p2.toNat * 2 ^ 16 + p1.toNat * 2 ^ 8 + p0.toNat := by
  have h1 := p2.isLt
  have h2 := p1.isLt
  have h3 := p0.isLt
  have h : (joinFields op p2 p1 p0).toNat = (op ++ 0#4 ++ p2 ++ p1 ++ p0).toNat := rfl
  rw [h]
  rw [BitVec.toNat_append, BitVec.toNat_append, BitVec.toNat_append, BitVec.toNat_append,
    ← Nat.shiftLeft_add_eq_or_of_lt h1, ← Nat.shiftLeft_add_eq_or_of_lt h2, ← Nat.shiftLeft_add_eq_or_of_lt h3]
  simp only [Nat.shiftLeft_eq, BitVec.toNat_ofNat, Nat.zero_mod, Nat.or_zero]
  omega

@[simp] theorem toNat_opField : (opField e).toNat = e.toNat / 2 ^ 28 % 16 := by
  simp [opField, Nat.shiftRight_eq_div_pow]

@[simp] theorem toNat_rsvField : (rsvField e).toNat = e.toNat / 2 ^ 24 % 16 := by
  simp [rsvField, Nat.shiftRight_eq_div_pow]

@[simp] theorem toNat_byte2 : (byte2 e).toNat = e.toNat / 2 ^ 16 % 256 := by
  simp [byte2, Nat.shiftRight_eq_div_pow]

@[simp] theorem toNat_byte1 : (byte1 e).toNat = e.toNat / 2 ^ 8 % 256 := by
  simp [byte1, Nat.shiftRight_eq_div_pow]

@[simp] theorem toNat_byte0 : (byte0 e).toNat = e.toNat % 256 := by
  simp [byte0]

@[simp] theorem opField_joinFields : opField (joinFields op p2 p1 p0) = op := by
  apply BitVec.eq_of_toNat_eq
  have := op.isLt; have := p2.isLt; have := p1.isLt; have := p0.isLt
  rw [toNat_opField, toNat_joinFields]
  omega

@[simp] theorem rsvField_joinFields : rsvField (joinFields op p2 p1 p0) = 0#4 := by
  apply BitVec.eq_of_toNat_eq
  have := op.isLt; have := p2.isLt; have := p1.isLt; have := p0.isLt
  rw [toNat_rsvField, toNat_joinFields]
  change _ = 0
  omega

@[simp] theorem byte2_joinFields : byte2 (joinFields op p2 p1 p0) = p2 := by
  apply BitVec.eq_of_toNat_eq
  have := op.isLt; have := p2.isLt; have := p1.isLt; have := p0.isLt
  rw [toNat_byte2, toNat_joinFields]
  omega

@[simp] theorem byte1_joinFields : byte1 (joinFields op p2 p1 p0) = p1 := by
  apply BitVec.eq_of_toNat_eq
  have := op.isLt; have := p2.isLt; have := p1.isLt; have := p0.isLt
  rw [toNat_byte1, toNat_joinFields]
  omega

@[simp] theorem byte0_joinFields : byte0 (joinFields op p2 p1 p0) = p0 := by
  apply BitVec.eq_of_toNat_eq
  have := op.isLt; have := p2.isLt; have := p1.isLt; have := p0.isLt
  rw [toNat_byte0, toNat_joinFields]
  omega

/-- A word with `rsv = 0` is its other four fields. -/
theorem joinFields_fields {e : Word} (h : rsvField e = 0#4) : joinFields (opField e) (byte2 e) (byte1 e) (byte0 e) = e := by
  apply BitVec.eq_of_toNat_eq
  have hr : (rsvField e).toNat = 0 := by rw [h]; rfl
  rw [toNat_rsvField] at hr
  have := e.isLt
  rw [toNat_joinFields, toNat_opField, toNat_byte2, toNat_byte1, toNat_byte0]
  omega

end Sys2Proof.Machine
end

