-- ==== Sys2Proof/Laws/PerInstr.lean ====
section
/-! SUPPORT. Statements about every operation as syntax, one lemma per constructor. -/

namespace Sys2Proof.Laws.TableRow

open Sys2Proof Sys2Proof.Machine

/-- The operation's word carries its row's `op`, `rsv = 0` and a payload its format admits (R39, R40, R42). -/
def Statement (i : Instr) : Prop :=
  opField (encode i) = i.row.opcode ∧ rsvField (encode i) = 0#4 ∧ i.row.format.payloadOk (encode i) = true

theorem tick : Statement .tick := by simp [Statement, encode, Instr.row, Format.payloadOk]

theorem sample (v : Byte) : Statement (.sample v) := by simp [Statement, encode, Instr.row, Format.payloadOk]

theorem wrR (v : Byte) : Statement (.wrR v) := by simp [Statement, encode, Instr.row, Format.payloadOk]

theorem wrG (v : Byte) : Statement (.wrG v) := by simp [Statement, encode, Instr.row, Format.payloadOk]

theorem wrB (v : Byte) : Statement (.wrB v) := by simp [Statement, encode, Instr.row, Format.payloadOk]

theorem wrRgb (r g b : Byte) : Statement (.wrRgb r g b) := by simp [Statement, encode, Instr.row, Format.payloadOk]

theorem rdAmb : Statement .rdAmb := by simp [Statement, encode, Instr.row, Format.payloadOk]

theorem reset : Statement .reset := by simp [Statement, encode, Instr.row, Format.payloadOk]

end Sys2Proof.Laws.TableRow
end

