-- ==== Sys2Proof/Laws/State.lean ====
section
/-! SUPPORT. One lemma per field per update, so that no later proof unfolds a record update. -/

namespace Sys2Proof

section Channels

variable {α β γ : Type}

@[simp] theorem Rgb.get_set_same (t : Rgb α) (c : Channel) (v : α) : (t.set c v).get c = v := by
  cases c <;> rfl

theorem Rgb.get_set_other (t : Rgb α) {c d : Channel} (v : α) (h : c ≠ d) : (t.set c v).get d = t.get d := by
  cases c <;> cases d <;> first | rfl | exact absurd rfl h

@[simp] theorem Rgb.get_zipWith (f : α → β → γ) (s : Rgb α) (t : Rgb β) (c : Channel) :
    (Rgb.zipWith f s t).get c = f (s.get c) (t.get c) := by
  cases c <;> rfl

@[simp] theorem Rgb.get_const (v : α) (c : Channel) : Rgb.get ⟨v, v, v⟩ c = v := by
  cases c <;> rfl

/-- Two triples are equal when they agree on every channel. -/
theorem Rgb.ext_get {s t : Rgb α} (h : ∀ c, s.get c = t.get c) : s = t :=
  Rgb.ext (h .red) (h .green) (h .blue)

end Channels

namespace Machine

section BlockFields

variable (b : Block) (c : Channel) (v : Byte) (t : Rgb Byte)

@[simp] theorem count_duty : b.count.duty = inc8 b.duty := rfl
@[simp] theorem count_x : b.count.x = b.x := rfl
@[simp] theorem count_l : b.count.l = b.l := rfl
@[simp] theorem count_out : b.count.out = b.out := rfl
@[simp] theorem count_ambient : b.count.ambient = b.ambient := rfl

@[simp] theorem latch_duty : b.latch.duty = b.duty := rfl
@[simp] theorem latch_x : b.latch.x = b.x := rfl
@[simp] theorem latch_l : b.latch.l = b.x := rfl
@[simp] theorem latch_out : b.latch.out = b.out := rfl
@[simp] theorem latch_ambient : b.latch.ambient = b.ambient := rfl

@[simp] theorem turnOn_duty : b.turnOn.duty = b.duty := rfl
@[simp] theorem turnOn_x : b.turnOn.x = b.x := rfl
@[simp] theorem turnOn_l : b.turnOn.l = b.l := rfl
@[simp] theorem turnOn_out : b.turnOn.out = Rgb.zipWith turnOnLevel b.l b.out := rfl
@[simp] theorem turnOn_ambient : b.turnOn.ambient = b.ambient := rfl

@[simp] theorem compare_duty : b.compare.duty = b.duty := rfl
@[simp] theorem compare_x : b.compare.x = b.x := rfl
@[simp] theorem compare_l : b.compare.l = b.l := rfl
@[simp] theorem compare_out : b.compare.out = Rgb.zipWith (compareLevel b.duty) b.l b.out := rfl
@[simp] theorem compare_ambient : b.compare.ambient = b.ambient := rfl

@[simp] theorem setX_duty : (b.setX c v).duty = b.duty := rfl
@[simp] theorem setX_x : (b.setX c v).x = b.x.set c v := rfl
@[simp] theorem setX_l : (b.setX c v).l = b.l := rfl
@[simp] theorem setX_out : (b.setX c v).out = b.out := rfl
@[simp] theorem setX_ambient : (b.setX c v).ambient = b.ambient := rfl

@[simp] theorem setAllX_duty : (b.setAllX t).duty = b.duty := rfl
@[simp] theorem setAllX_x : (b.setAllX t).x = t := rfl
@[simp] theorem setAllX_l : (b.setAllX t).l = b.l := rfl
@[simp] theorem setAllX_out : (b.setAllX t).out = b.out := rfl
@[simp] theorem setAllX_ambient : (b.setAllX t).ambient = b.ambient := rfl

@[simp] theorem setAmbient_duty : (b.setAmbient v).duty = b.duty := rfl
@[simp] theorem setAmbient_x : (b.setAmbient v).x = b.x := rfl
@[simp] theorem setAmbient_l : (b.setAmbient v).l = b.l := rfl
@[simp] theorem setAmbient_out : (b.setAmbient v).out = b.out := rfl
@[simp] theorem setAmbient_ambient : (b.setAmbient v).ambient = v := rfl

end BlockFields

section ResetFields

variable (d a : Byte)

@[simp] theorem afterReset_duty : (Block.afterReset d a).duty = d := rfl
@[simp] theorem afterReset_x : (Block.afterReset d a).x = ⟨0#8, 0#8, 0#8⟩ := rfl
@[simp] theorem afterReset_l : (Block.afterReset d a).l = ⟨0#8, 0#8, 0#8⟩ := rfl
@[simp] theorem afterReset_out : (Block.afterReset d a).out = ⟨OFF, OFF, OFF⟩ := rfl
@[simp] theorem afterReset_ambient : (Block.afterReset d a).ambient = a := rfl

/-- The reset state's registers are those that a `RESET` leaves. -/
theorem reset_block : State.reset.block = Block.afterReset Config.dutyReset (Config.ambientReset 0) := rfl

end ResetFields

section StateFields

variable (s : State) (b : Block) (v : Byte)

@[simp] theorem withBlock_block : (s.withBlock b).block = b := rfl
@[simp] theorem withBlock_input : (s.withBlock b).input = s.input := rfl
@[simp] theorem withBlock_record : (s.withBlock b).record = s.record := rfl
@[simp] theorem withBlock_draws : (s.withBlock b).draws = s.draws := rfl
@[simp] theorem withBlock_ties : (s.withBlock b).ties = s.ties := rfl

@[simp] theorem returnByte_block : (s.returnByte v).block = s.block := rfl
@[simp] theorem returnByte_input : (s.returnByte v).input = s.input := rfl
@[simp] theorem returnByte_record : (s.returnByte v).record = v :: s.record := rfl
@[simp] theorem returnByte_draws : (s.returnByte v).draws = s.draws := rfl
@[simp] theorem returnByte_ties : (s.returnByte v).ties = s.ties := rfl

/-- Where the port `h_rdata` shows a value, it is the one just returned. -/
@[simp] theorem returnByte_hRdata : (s.returnByte v).hRdata = some v := rfl

end StateFields

end Machine

end Sys2Proof
end

