-- ==== Sys2Proof/Laws/Step.lean ====
section
/-! SUPPORT. What taking an event can do, and how runs are put together. -/

namespace Sys2Proof.Machine

theorem fetch_nil {s : State} (h : s.input = []) : s.fetch = (none, s) := by
  simp [State.fetch, h]

theorem fetch_word {s : State} {e : Word} {rest : List Input} (h : s.input = .word e :: rest) :
    s.fetch = (some (decode e), { s with input := rest }) := by
  simp [State.fetch, h]

theorem fetch_bus {s : State} {a : BusAccess} {rest : List Input} (h : s.input = .bus a :: rest) :
    s.fetch = (some (decodeAccess a), { s with input := rest }) := by
  simp [State.fetch, h]

theorem fetch_pins {s : State} {p : Pins} {rest : List Input} (h : s.input = .pins p :: rest) :
    s.fetch = s.takePulse p rest := by
  simp [State.fetch, h]

theorem takePulse_none {s : State} {p : Pins} {rest : List Input} (h : p.pulses = []) :
    s.takePulse p rest = (none, { s with input := rest }) := by
  simp [State.takePulse, h]

theorem takePulse_one {s : State} {p : Pins} {rest : List Input} {q : Pulse} (h : p.pulses = [q]) :
    s.takePulse p rest = (some (p.operation q), { s with input := rest }) := by
  simp [State.takePulse, h]

/-- Of several pulses, one of them is taken, whichever the free choice is, and the others wait. -/
theorem takePulse_many {s : State} {p : Pins} {rest : List Input} (h : 2 ≤ p.pulses.length) :
    ∃ q ∈ p.pulses, s.takePulse p rest =
      (some (p.operation q), { s with input := .pins (p.without q) :: rest, ties := s.ties + 1 }) := by
  match hp : p.pulses with
  | [] => simp [hp] at h
  | [q] => simp [hp] at h
  | q :: q' :: qs =>
    have hlt : Config.tieBreak s.ties % (q :: q' :: qs).length < (q :: q' :: qs).length :=
      Nat.mod_lt _ (by simp)
    refine ⟨(q :: q' :: qs).getD (Config.tieBreak s.ties % (q :: q' :: qs).length) q, ?_, ?_⟩
    · rw [List.getD_eq_getElem _ _ hlt]
      exact List.getElem_mem hlt
    · simp [State.takePulse, hp]

theorem step_of_fetch_none {s t : State} (h : s.fetch = (none, t)) : step s = .next t := by
  simp [step, h]

theorem step_of_fetch_ok {s t : State} {i : Instr} (h : s.fetch = (some (.ok i), t)) : step s = exec i t := by
  simp [step, h]

theorem step_of_fetch_error {s t : State} {r : Reject} (h : s.fetch = (some (.error r), t)) :
    step s = .refused r.refusal := by
  simp [step, h]

@[simp] theorem runOps_nil (s : State) : runOps [] s = .next s := rfl

theorem runOps_cons {i : Instr} {s t : State} (h : exec i s = .next t) (is : List Instr) :
    runOps (i :: is) s = runOps is t := by
  simp [runOps, h]

/-- A run is the run of its first part and then of its second. -/
theorem runOps_append {as bs : List Instr} {s t : State} (h : runOps as s = .next t) :
    runOps (as ++ bs) s = runOps bs t := by
  induction as generalizing s with
  | nil => simp only [runOps, Host.Outcome.next.injEq] at h; simp [h]
  | cons i is ih =>
    simp only [runOps, List.cons_append] at h ⊢
    split at h
    · exact ih h
    · cases h
    · cases h

end Sys2Proof.Machine
end

