-- ==== Sys2Proof/Laws/Tick.lean ====
section
/-! SUPPORT. What `TICK` leaves in each register, read off its steps once (R51). -/

namespace Sys2Proof.Machine

variable (b : Block)

/-- Counting wraps exactly where the counter stood at its top (R52). -/
theorem inc8_eq_zero_iff (d : Byte) : inc8 d = 0#8 ↔ d = 255#8 := by
  unfold inc8
  constructor <;> intro h <;> bv_omega

/-- Below the top, counting adds one (R52). -/
theorem inc8_toNat {d : Byte} (h : d ≠ 255#8) : (inc8 d).toNat = d.toNat + 1 := by
  unfold inc8
  have : d.toNat ≠ 255 := fun e => h (BitVec.eq_of_toNat_eq e)
  have := d.isLt
  simp only [BitVec.toNat_add, BitVec.toNat_ofNat]
  omega

/-- Off the wrap tick the start of a frame does nothing. -/
theorem startFrame_of_ne {b : Block} (h : b.duty ≠ 0#8) : b.startFrame = b := by
  simp [Block.startFrame, h]

/-- On the wrap tick it latches and turns on. -/
theorem startFrame_of_eq {b : Block} (h : b.duty = 0#8) : b.startFrame = b.latch.turnOn := by
  simp [Block.startFrame, h]

@[simp] theorem startFrame_duty : b.startFrame.duty = b.duty := by
  unfold Block.startFrame; split <;> rfl

@[simp] theorem startFrame_x : b.startFrame.x = b.x := by
  unfold Block.startFrame; split <;> rfl

@[simp] theorem startFrame_ambient : b.startFrame.ambient = b.ambient := by
  unfold Block.startFrame; split <;> rfl

@[simp] theorem tick_duty : b.tick.duty = inc8 b.duty := by simp [Block.tick]

@[simp] theorem tick_x : b.tick.x = b.x := by simp [Block.tick]

@[simp] theorem tick_ambient : b.tick.ambient = b.ambient := by simp [Block.tick]

/-- The latch happens on the wrap tick and on no other (R54). -/
theorem tick_l : b.tick.l = if b.duty = 255#8 then b.x else b.l := by
  by_cases h : b.duty = 255#8
  · have : b.count.duty = 0#8 := (inc8_eq_zero_iff b.duty).mpr h
    simp [Block.tick, startFrame_of_eq this, h]
  · have : b.count.duty ≠ 0#8 := fun e => h ((inc8_eq_zero_iff b.duty).mp e)
    simp [Block.tick, startFrame_of_ne this, h]

/-- A line after a wrap tick: ON exactly where the new latched value is above 0, whatever it was (R56 (d)). -/
theorem tick_out_wrap {b : Block} (h : b.duty = 255#8) (c : Channel) :
    b.tick.out.get c = decide (0#8 < b.x.get c) := by
  have hd : b.count.duty = 0#8 := (inc8_eq_zero_iff b.duty).mpr h
  have hd' : inc8 b.duty = 0#8 := hd
  simp only [Block.tick, startFrame_of_eq hd, compare_out, Rgb.get_zipWith, turnOn_duty, latch_duty, count_duty, hd', turnOn_l,
    latch_l, count_x, turnOn_out, latch_out, count_out, compareLevel, turnOnLevel]
  generalize b.x.get c = v
  by_cases hv : v = 0#8
  · subst hv; simp
  · have : 0#8 < v := by bv_omega
    simp [hv, this]

/-- A line after any other tick: OFF where its latched value equals the new count, else as it was. -/
theorem tick_out_inside {b : Block} (h : b.duty ≠ 255#8) (c : Channel) :
    b.tick.out.get c = compareLevel (inc8 b.duty) (b.l.get c) (b.out.get c) := by
  have : b.count.duty ≠ 0#8 := fun e => h ((inc8_eq_zero_iff b.duty).mp e)
  simp [Block.tick, startFrame_of_ne this]

end Sys2Proof.Machine
end

