-- ==== Sys2Proof/Tests/Slice0.lean ====
section
/-! SUPPORT. Tests and witnesses. An expected result comes from the spec's own examples and vectors, named beside each test
("T-…" is a row of spec/95_test_vectors.md), or is written out from the encoding tables of 30_encoding.md. A witness shows a
concrete state and operands that meet the hypotheses of the obligation it is named after. -/

namespace Sys2Proof.Tests

open Sys2Proof Sys2Proof.Machine

/-- A state by its registers, in the order of 95_test_vectors.md, with no event waiting and nothing returned. -/
def st (x l : Rgb Byte) (duty : Byte) (out : Rgb Level) (ambient : Byte) : State :=
  { block := { x, l, duty, out, ambient }, input := [], record := [], draws := 1, ties := 0 }

/-- The outcome is a next state with the given property. -/
def nextHas (o : Host.Outcome State Fault Refusal) (p : State → Bool) : Bool :=
  match o with
  | .next t    => p t
  | .fault _   => false
  | .refused _ => false

/-- The outcome is the given refusal. -/
def refusedAs (o : Host.Outcome State Fault Refusal) (r : Refusal) : Bool :=
  match o with
  | .refused q => decide (q = r)
  | .next _    => false
  | .fault _   => false

/-- A quiet instant: no pulse. -/
def noPulse : Pins := ⟨false, false, false, 0#8, false, false, false, 0#2, 0#32⟩

def dark : State := st ⟨10, 20, 30⟩ ⟨1, 2, 3⟩ 7 ⟨OFF, OFF, OFF⟩ 0x40

def atTop : State := st ⟨3, 0, 255⟩ ⟨9, 9, 9⟩ 255 ⟨OFF, OFF, OFF⟩ 0x40

/-! ## WellFormed: each check refuses an ill-formed term -/

theorem test_word_reserved_field_refused : wordWellFormed 0x11000000#32 = false := by decide
theorem test_word_reserved_op_refused : wordWellFormed 0x80000000#32 = false := by decide
theorem test_word_format_N_payload_refused : wordWellFormed 0x70000001#32 = false := by decide
theorem test_word_format_B_payload_refused : wordWellFormed 0x20000190#32 = false := by decide
theorem test_access_byte_write_at_3_refused : (BusAccess.write 3 1 0x55#32).wellFormed = false := by decide
theorem test_access_word_write_at_1_refused : (BusAccess.write 1 4 0#32).wellFormed = false := by decide
theorem test_access_half_write_refused : (BusAccess.write 0 2 0#32).wellFormed = false := by decide
theorem test_access_word_read_refused : (BusAccess.read 0 4).wellFormed = false := by decide
theorem test_access_read_at_0_refused : (BusAccess.read 0 1).wellFormed = false := by decide
theorem test_line_unknown_mnemonic_refused : (RawLine.mk "NOP".toList [] none).wellFormed = false := by decide
theorem test_line_wrong_count_refused : (RawLine.mk "WR_RGB".toList [1, 2] none).wellFormed = false := by decide
theorem test_line_large_operand_refused : (RawLine.mk "WR_R".toList [256] none).wellFormed = false := by decide
theorem test_line_stated_value_refused : (RawLine.mk "TICK".toList [] (some 3)).wellFormed = false := by decide
theorem test_line_large_stated_value_refused : (RawLine.mk "RD_AMB".toList [] (some 256)).wellFormed = false := by decide
theorem test_line_long_TICKS_accepted : (RawLine.mk "TICKS".toList [512] none).wellFormed = true := by decide

/-! ## Decode: words written out bit by bit from the encoding strings of opcode_table.json -/

theorem test_decode_TICK : decode 0b00010000000000000000000000000000#32 = .ok .tick := by decide
theorem test_decode_SAMPLE : decode 0b00100000000000000000000010010000#32 = .ok (.sample 0x90) := by decide
theorem test_decode_WR_R : decode 0b00110000000000000000000011111100#32 = .ok (.wrR 252) := by decide
theorem test_decode_WR_G : decode 0b01000000000000000000000001100100#32 = .ok (.wrG 100) := by decide
theorem test_decode_WR_B : decode 0b01010000000000000000000011111111#32 = .ok (.wrB 255) := by decide
theorem test_decode_WR_RGB : decode 0b01100000000111100001010000001010#32 = .ok (.wrRgb 10 20 30) := by decide
theorem test_decode_RD_AMB : decode 0b01110000000000000000000000000000#32 = .ok .rdAmb := by decide
theorem test_decode_RESET : decode 0b11110000000000000000000000000000#32 = .ok .reset := by decide

-- T-E10 to T-E20: the refused words, `rsv` tested first
theorem test_decode_reserved_ops :
    decode 0x00000000#32 = .error .reservedOp ∧ decode 0x80000000#32 = .error .reservedOp ∧
    decode 0xE0000000#32 = .error .reservedOp := by decide
theorem test_decode_reserved_bits :
    decode 0xFFFFFFFF#32 = .error .reservedBits ∧ decode 0x10000001#32 = .error .reservedBits ∧
    decode 0x11000000#32 = .error .reservedBits ∧ decode 0x20000190#32 = .error .reservedBits ∧
    decode 0x6F1E140A#32 = .error .reservedBits ∧ decode 0x70000001#32 = .error .reservedBits ∧
    decode 0xF0010000#32 = .error .reservedBits ∧ decode 0x0F000000#32 = .error .reservedBits := by decide

-- T-B1 to T-B8
theorem test_access_meanings :
    decodeAccess (.write 0 1 0xFC#32) = .ok (.wrR 252) ∧ decodeAccess (.write 0 4 0xAA1E140A#32) = .ok (.wrRgb 10 20 30) ∧
    decodeAccess (.read 3 1) = .ok .rdAmb := by decide
theorem test_access_refusals :
    decodeAccess (.write 3 1 0x55#32) = .error .badAccess ∧ decodeAccess (.read 1 1) = .error .badAccess ∧
    decodeAccess (.write 2 4 0#32) = .error .badAccess ∧ decodeAccess (.read 0 4) = .error .badAccess ∧
    decodeAccess (.write 0 2 0#32) = .error .badAccess := by decide

theorem test_table_patterns_disjoint :
    opTable.Pairwise (fun a b => a.pattern &&& (a.mask &&& b.mask) ≠ b.pattern &&& (a.mask &&& b.mask)) := by decide
theorem test_table_word_of_host : decodeTableWord 32 0x601E140A = some (.wrRgb 10 20 30) := by decide
theorem test_table_word_too_long : decodeTableWord 40 0x0110000000 = none := by decide

/-! ## The operations -/

-- the worked example of R51
theorem test_TICK_wrap : nextHas (exec .tick atTop) (fun t => decide (t.block =
    { x := ⟨3, 0, 255⟩, l := ⟨3, 0, 255⟩, duty := 0, out := ⟨ON, OFF, ON⟩, ambient := 0x40 })) = true := by decide
-- T-2 (a latched 0 forces the line OFF), T-14 and T-4, one in each channel's place
theorem test_TICK_corners :
    nextHas (exec .tick (st ⟨0, 200, 1⟩ ⟨9, 200, 0⟩ 255 ⟨ON, ON, OFF⟩ 0))
      (fun t => decide (t.block.out = ⟨OFF, ON, ON⟩)) = true ∧
    nextHas (exec .tick (st ⟨77, 5, 3⟩ ⟨200, 201, 5⟩ 199 ⟨ON, ON, ON⟩ 0))
      (fun t => decide (t.block.out = ⟨OFF, ON, ON⟩) && decide (t.block.l = ⟨200, 201, 5⟩)) = true := by decide
-- T-S1
theorem test_SAMPLE : nextHas (exec (.sample 0x90) dark) (fun t => decide (t = st ⟨10, 20, 30⟩ ⟨1, 2, 3⟩ 7 ⟨OFF, OFF, OFF⟩ 0x90)) = true := by
  decide
-- T-H1 to T-H4
theorem test_WR_R : nextHas (exec (.wrR 252) (st ⟨0, 0, 0⟩ ⟨4, 5, 6⟩ 9 ⟨ON, OFF, ON⟩ 1))
    (fun t => decide (t = st ⟨252, 0, 0⟩ ⟨4, 5, 6⟩ 9 ⟨ON, OFF, ON⟩ 1)) = true := by decide
theorem test_WR_G : nextHas (exec (.wrG 0) (st ⟨1, 7, 3⟩ ⟨4, 5, 6⟩ 9 ⟨ON, OFF, ON⟩ 1))
    (fun t => decide (t = st ⟨1, 0, 3⟩ ⟨4, 5, 6⟩ 9 ⟨ON, OFF, ON⟩ 1)) = true := by decide
theorem test_WR_B : nextHas (exec (.wrB 255) (st ⟨1, 7, 0⟩ ⟨4, 5, 6⟩ 9 ⟨ON, OFF, ON⟩ 1))
    (fun t => decide (t = st ⟨1, 7, 255⟩ ⟨4, 5, 6⟩ 9 ⟨ON, OFF, ON⟩ 1)) = true := by decide
theorem test_WR_RGB : nextHas (exec (.wrRgb 10 20 30) (st ⟨9, 9, 9⟩ ⟨4, 5, 6⟩ 9 ⟨ON, OFF, ON⟩ 1))
    (fun t => decide (t = st ⟨10, 20, 30⟩ ⟨4, 5, 6⟩ 9 ⟨ON, OFF, ON⟩ 1)) = true := by decide
-- T-H7
theorem test_RD_AMB : nextHas (exec .rdAmb (st ⟨1, 2, 3⟩ ⟨4, 5, 6⟩ 9 ⟨ON, OFF, ON⟩ 0x90))
    (fun t => t.hRdata == some 0x90 && decide (t.block = (st ⟨1, 2, 3⟩ ⟨4, 5, 6⟩ 9 ⟨ON, OFF, ON⟩ 0x90).block)) = true := by decide
-- T-R1, for every `DUTY_RESET` and draw; the two are constants without a value, so they stand as they are
theorem test_RESET : exec .reset (st ⟨200, 100, 50⟩ ⟨200, 20, 30⟩ 17 ⟨ON, ON, ON⟩ 0x90) =
    .next { st ⟨0, 0, 0⟩ ⟨0, 0, 0⟩ Config.dutyReset ⟨OFF, OFF, OFF⟩ (Config.ambientReset 1) with draws := 2 } := rfl

/-! ## Steps, pins and traces -/

theorem test_step_runs_a_placed_word : nextHas (step (dark.withFetchWord 32 0x20000090)) (fun t => decide (t.block.ambient = 0x90)) = true := by
  decide
theorem test_step_idles : nextHas (step dark) (fun t => decide (t = dark)) = true := by decide
theorem test_step_refuses : refusedAs (step (dark.withFetchWord 32 0)) .reservedOp = true := by decide
theorem test_step_pins : nextHas (step { dark with input := [.pins { noPulse with adcDone := true, adcData := 5 }] })
    (fun t => decide (t.block.ambient = 5) && t.input.isEmpty) = true := by decide
theorem test_step_quiet_pins : nextHas (step { dark with input := [.pins noPulse] }) (fun t => decide (t = dark)) = true := by decide

-- the example of R47, line by line and as a whole
theorem test_parse_WR_RGB : parseLine "WR_RGB 252, 0, 0      # word 0x600000FC".toList = some (some (.op (.wrRgb 252 0 0))) := by decide
theorem test_parse_RD_AMB : parseLine "RD_AMB -> 0x90        # word 0x70000000".toList = some (some (.readIs 0x90)) := by decide
theorem test_parse_TICKS : parseLine "TICKS 512".toList = some (some (.ticks 512)) := by decide
theorem test_parse_rejects : parseLine "SAMPLE 256".toList = none ∧ parseLine "TICK 1".toList = none ∧ parseLine "NOP".toList = none := by
  decide
theorem test_parse_trace : parseTrace "RESET\n\n# a comment\nSET_RGB 1,2,3\nBAD_ACCESS".toList =
    some [.op .reset, .setRgb 1 2 3, .badAccess] := by decide
-- R26, R28: the second read returns the same value; a wrong stated value does not hold
theorem test_trace_states_values :
    traceHolds [.op (.sample 0x90), .readIs 0x90, .op .rdAmb, .readIs 0x90] dark = true ∧
    traceHolds [.op (.sample 0x90), .readIs 0x91] dark = false ∧ traceHolds [.badAccess] dark = false := by decide

/-! ## Witnesses: the hypotheses of each obligation, met together -/

/-- The state with the given events waiting. -/
def waiting (s : State) (events : List Input) : State := { s with input := events }

/-- Twice as many ticks as samples: an endless run without `RESET` in which both recur. -/
def fairRun (n : Nat) : Instr := if n % 3 = 2 then .sample 5#8 else .tick

theorem witness_DecodeAndEncodeAreInverse : decode 0x300000FC#32 = .ok (.wrR 252) := by decide

theorem witness_MaskAndMatchDecideTheOperation : decode 0x601E140A#32 = .ok (.wrRgb 10 20 30) := by decide

theorem witness_OperandsArePayloadBytes :
    decode 0x200000FF#32 = .ok (.sample 255) ∧ decode 0x30000000#32 = .ok (.wrR 0) ∧ decode 0x40000080#32 = .ok (.wrG 128) ∧
    decode 0x500000FF#32 = .ok (.wrB 255) ∧ decode 0x60FF8000#32 = .ok (.wrRgb 0 128 255) := by decide

/-- Each cause of a refusal occurs, and each refused step is reached. -/
theorem witness_StepRefusesExactlyOnTheNamedCauses :
    refusedAs (step (waiting dark [.word 0x1F000000#32])) .reservedBits = true ∧
    refusedAs (step (waiting dark [.word 0xF0000001#32])) .reservedBits = true ∧
    refusedAs (step (waiting dark [.word 0x50000100#32])) .reservedBits = true ∧
    refusedAs (step (waiting dark [.word 0x00000000#32])) .reservedOp = true ∧
    refusedAs (step (waiting dark [.word 0x8FFFFFFF#32])) .reservedBits = true ∧
    refusedAs (step (waiting dark [.word 0xE0FFFFFF#32])) .reservedOp = true ∧
    refusedAs (step (waiting dark [.bus (.read 4 1)])) .badAccess = true ∧
    refusedAs (step (waiting dark [.pins { noPulse with hReq := true }])) .badAccess = true := by decide

theorem witness_WellFormedTermsAreThoseWithAMeaning :
    wordWellFormed 0x60FFFFFF#32 = true ∧ (BusAccess.write 2 1 7#32).wellFormed = true ∧
    (BusAccess.write 0 4 7#32).wellFormed = true ∧ (BusAccess.read 3 1).wellFormed = true ∧
    (RawLine.mk "SET_RGB".toList [0, 128, 255] none).wellFormed = true ∧
    (RawLine.mk "RD_AMB".toList [] (some 255)).wellFormed = true := by decide

theorem witness_TripleWriteNextState :
    (0xAA1E140A#32).extractLsb' 0 8 = 10#8 ∧ (0xAA1E140A#32).extractLsb' 8 8 = 20#8 ∧ (0xAA1E140A#32).extractLsb' 16 8 = 30#8 ∧
    List.Perm [Instr.wrB 30, .wrR 10, .wrG 20] [.wrR 10, .wrG 20, .wrB 30] := by decide

theorem witness_OperationsTouchOnlyTheirOwnRegisters :
    Instr.agent .tick = .timer ∧ Instr.agent (.sample 1) = .converter ∧ Instr.agent (.wrG 1) = .host ∧
    Instr.agent .rdAmb = .host ∧ written .red (.wrG 1) = none := by decide

theorem witness_StepPerformsTheNextEvent :
    decode 0x10000000#32 = .ok .tick ∧ (waiting dark [.word 0x10000000#32]).input = .word 0x10000000#32 :: [] ∧
    decodeAccess (.read 3 1) = .ok .rdAmb ∧ (waiting dark [.bus (.read 3 1)]).input = .bus (.read 3 1) :: [] ∧
    dark.input = [] := by decide

/-- One clause a conjunct, the last at the two ends of the offsets and with a size of its own. -/
theorem witness_HostWindowAccesses :
    nextHas (step (waiting dark [.bus (.write 0 1 0xFFFFFF07#32)])) (fun t => decide (t.block.x = ⟨7, 20, 30⟩)) = true ∧
    nextHas (step (waiting dark [.bus (.write 1 1 7#32)])) (fun t => decide (t.block.x = ⟨10, 7, 30⟩)) = true ∧
    nextHas (step (waiting dark [.bus (.write 2 1 7#32)])) (fun t => decide (t.block.x = ⟨10, 20, 7⟩)) = true ∧
    nextHas (step (waiting dark [.bus (.write 0 4 0xFF030201#32)])) (fun t => decide (t.block.x = ⟨1, 2, 3⟩)) = true ∧
    nextHas (step (waiting dark [.bus (.read 3 1)])) (fun t => decide (t.record = [0x40])) = true ∧
    refusedAs (step (waiting dark [.bus (.read 0 1)])) .badAccess = true ∧
    refusedAs (step (waiting dark [.bus (.write 3 1 0#32)])) .badAccess = true ∧
    refusedAs (step (waiting dark [.bus (.write 1 4 0#32)])) .badAccess = true ∧
    refusedAs (step (waiting dark [.bus (.write 0 2 0#32)])) .badAccess = true := by decide

theorem witness_AccessesHaveNoSideEffect :
    NoReset [.tick, .wrR 5, .rdAmb] ∧ (∀ i ∈ [Instr.tick, .wrR 5, .rdAmb], reading i = none) ∧
    isWrite (.wrR 1) = true ∧ written .green (.wrR 1) = none ∧ written .red (.wrR 1) = some 1 ∧
    isWrite (.wrRgb 1 2 3) = true ∧ written .blue (.wrRgb 1 2 3) = some 3 := by decide

/-- The nine rows of the port table, one conjunct each, the refused row at each of its four causes. -/
theorem witness_OnePulseIsOneOperation :
    step (waiting dark [.pins { noPulse with rst := true }]) = exec .reset dark ∧
    step (waiting dark [.pins { noPulse with tick := true }]) = exec .tick dark ∧
    step (waiting dark [.pins { noPulse with adcDone := true, adcData := 255 }]) = exec (.sample 255) dark ∧
    step (waiting dark [.pins { noPulse with hReq := true, hWe := true, hWdata := 0xFFFFFF01#32 }]) = exec (.wrR 1) dark ∧
    step (waiting dark [.pins { noPulse with hReq := true, hWe := true, hAddr := 1, hWdata := 1 }]) = exec (.wrG 1) dark ∧
    step (waiting dark [.pins { noPulse with hReq := true, hWe := true, hAddr := 2, hWdata := 1 }]) = exec (.wrB 1) dark ∧
    step (waiting dark [.pins { noPulse with hReq := true, hWe := true, hSize := true, hWdata := 0xFF030201#32 }]) =
      exec (.wrRgb 1 2 3) dark ∧
    step (waiting dark [.pins { noPulse with hReq := true, hAddr := 3 }]) = exec .rdAmb dark ∧
    step (waiting dark [.pins { noPulse with hReq := true, hWe := true, hAddr := 3 }]) = .refused .badAccess ∧
    step (waiting dark [.pins { noPulse with hReq := true, hWe := true, hSize := true, hAddr := 1 }]) = .refused .badAccess ∧
    step (waiting dark [.pins { noPulse with hReq := true, hAddr := 2 }]) = .refused .badAccess ∧
    step (waiting dark [.pins { noPulse with hReq := true, hSize := true, hAddr := 3 }]) = .refused .badAccess :=
  ⟨rfl, rfl, rfl, rfl, rfl, rfl, rfl, rfl, rfl, rfl, rfl, rfl⟩

theorem witness_SimultaneousPulsesArePerformedOnceEach :
    let p : Pins := { noPulse with tick := true, adcDone := true, hReq := true, hAddr := 3 }
    p.pulses = [.tick, .adcDone, .hReq] ∧ p.operation .tick = .ok .tick ∧ p.operation .adcDone = .ok (.sample 0) ∧
    p.operation .hReq = .ok .rdAmb := by decide

theorem witness_WordsRunAsTheirOperations :
    (waiting dark [.word 0x10000000#32, .word 0x70000000#32]).input =
      [Instr.tick, .rdAmb].map (fun i => Input.word (encode i)) ++ [] := by decide

theorem witness_PseudoOperationsExpand :
    (waiting dark []).input = (TraceLine.ticks 0).expand ++ [] ∧
    (waiting dark [.word 0x10000000#32, .word 0x10000000#32]).input = (TraceLine.ticks 2).expand ++ [] ∧
    (waiting dark (List.replicate frameTicks (.word (encode .tick)))).input = TraceLine.frame.expand ++ [] ∧
    (waiting dark [.word 0x30000001#32, .word 0x40000002#32, .word 0x50000003#32]).input =
      (TraceLine.setRgb 1 2 3).expand ++ [] ∧
    (waiting dark [.bus (.read 0 1)]).input = TraceLine.badAccess.expand ++ [] :=
  ⟨rfl, rfl, (List.append_nil _).symm, rfl, rfl⟩

/-- A whole frame's ticks hold no `RESET` and no write. -/
theorem ticks_facts (n : Nat) :
    NoReset (List.replicate n .tick) ∧ NoWrite (List.replicate n .tick) ∧ tickCount (List.replicate n .tick) = n := by
  refine ⟨?_, ?_, ?_⟩
  · simp [NoReset, List.mem_replicate]
  · intro i hi
    rw [(List.mem_replicate.mp hi).2]
    rfl
  · simp [tickCount]

theorem witness_CounterTakesEachValueOncePerFrame :
    dark.block.duty ≠ 255#8 ∧ atTop.block.duty = 255#8 ∧
    NoReset (List.replicate 256 .tick) ∧ tickCount (List.replicate 256 .tick) = 256 :=
  ⟨by decide, rfl, (ticks_facts 256).1, (ticks_facts 256).2.2⟩

theorem witness_LatchIsOneSnapshotOnTheWrapTick :
    atTop.block.duty = 255#8 ∧ dark.block.duty ≠ 255#8 ∧ NoReset [.wrR 4, .tick, .sample 1] := by decide

theorem witness_LineIsOnBelowItsLatchedValue :
    atTop.block.duty = 255#8 ∧ NoReset (List.replicate 255 .tick) ∧ tickCount (List.replicate 255 .tick) ≤ 255 ∧
    NoReset [] ∧ tickCount [] ≤ 255 :=
  ⟨rfl, (ticks_facts 255).1, le_of_eq (ticks_facts 255).2.2, (ticks_facts 0).1, by decide⟩

theorem witness_LineIsOnForExactlyItsLatchedValue :
    atTop.block.duty = 255#8 ∧ NoReset (List.replicate 255 .tick) ∧ tickCount (List.replicate 255 .tick) = 255 :=
  ⟨rfl, (ticks_facts 255).1, (ticks_facts 255).2.2⟩

/-- Two states that differ in every other channel and in the reading. -/
theorem witness_ChannelsAreIndependent :
    let a := st ⟨5, 1, 1⟩ ⟨4, 1, 1⟩ 7 ⟨OFF, ON, ON⟩ 0
    let b := st ⟨5, 2, 2⟩ ⟨4, 2, 2⟩ 7 ⟨OFF, OFF, OFF⟩ 9
    a.block.duty = b.block.duty ∧ a.block.x.get .red = b.block.x.get .red ∧ a.block.l.get .red = b.block.l.get .red ∧
    a.block.out.get .red = b.block.out.get .red ∧ a ≠ b := by decide

/-- Two runs up to the wrap tick that end with the same intensities by different writes. -/
theorem witness_WritesWaitForTheWrapTick :
    let s := st ⟨1, 1, 1⟩ ⟨4, 1, 1⟩ 254 ⟨OFF, OFF, OFF⟩ 0
    NoReset [.wrR 9, .tick, .wrR 2] ∧ NoReset [.tick, .wrR 2] ∧ tickCount [.wrR 9, .tick, .wrR 2] = tickCount [.tick, .wrR 2] ∧
    s.block.duty.toNat + tickCount [.wrR 9, .tick, .wrR 2] ≤ 255 ∧
    nextHas (runOps [.wrR 9, .tick, .wrR 2] s) (fun t => nextHas (runOps [.tick, .wrR 2] s) (fun u =>
      decide (t.block.duty = 255#8 ∧ t.block.x = u.block.x))) = true := by decide

/-- An OFF-to-ON edge at the wrap tick and an ON-to-OFF edge inside a frame. -/
theorem witness_EdgesRevealTheCounter :
    nextHas (exec .tick atTop) (fun t => decide (atTop.block.out.get .red = OFF ∧ t.block.out.get .red = ON)) = true ∧
    nextHas (exec .tick (st ⟨0, 0, 0⟩ ⟨8, 0, 0⟩ 7 ⟨ON, OFF, OFF⟩ 0)) (fun t => t.block.out.get .red == OFF) = true ∧
    (Instr.rdAmb ≠ .tick ∧ Instr.rdAmb ≠ .reset) := by decide

theorem witness_StepKeepsTheOutputInvariant :
    OutputInvariant dark.block ∧ OutputInvariant (st ⟨0, 0, 0⟩ ⟨8, 0, 255⟩ 7 ⟨ON, OFF, ON⟩ 0).block ∧
    step (waiting dark [.word 0x70000000#32]) = .next { dark with record := [0x40] } :=
  ⟨by unfold OutputInvariant; intro c; cases c <;> decide, by unfold OutputInvariant; intro c; cases c <;> decide, rfl⟩

theorem witness_ReadReturnsTheLastReading : NoReset [.sample 3, .tick, .sample 9] ∧ NoReset [] := by decide

/-- After a `RESET`, `255 − DUTY_RESET` ticks bring the counter to its top, whatever `DUTY_RESET` is. -/
theorem duty_after_ticks (n : Nat) (s : State) : ∃ t, runOps (List.replicate n .tick) s = .next t ∧
    t.block.duty = s.block.duty + BitVec.ofNat 8 n := by
  induction n generalizing s with
  | zero => exact ⟨s, rfl, by simp⟩
  | succ n ih =>
    obtain ⟨t, h, hd⟩ := ih (s.withBlock s.block.tick)
    refine ⟨t, h, ?_⟩
    rw [hd, withBlock_block, tick_duty, inc8, BitVec.ofNat_add]
    ac_rfl

theorem witness_WrapTickLatchesTheLastWrite :
    NoReset (List.replicate (255 - Config.dutyReset.toNat) .tick) ∧
    ∃ t, runOps ([] ++ .reset :: List.replicate (255 - Config.dutyReset.toNat) .tick) dark = .next t ∧ t.block.duty = 255#8 := by
  obtain ⟨t, h, hd⟩ := duty_after_ticks (255 - Config.dutyReset.toNat)
    { dark with block := Block.afterReset Config.dutyReset (Config.ambientReset 1), draws := 2 }
  refine ⟨(ticks_facts _).1, t, h, hd.trans ?_⟩
  have := Config.dutyReset.isLt
  apply BitVec.eq_of_toNat_eq
  simp only [afterReset_duty, BitVec.toNat_add, BitVec.toNat_ofNat]
  omega

theorem witness_LatestReadingWins :
    NoReset [.sample 3, .tick, .sample 9] ∧ .rdAmb ∉ [Instr.sample 3, .tick, .sample 9] := by decide

theorem witness_DisjointOperationsCommute :
    isWrite (.wrB 4) = true ∧ dark.block.duty ≠ 255#8 ∧ (st ⟨0, 0, 0⟩ ⟨0, 0, 0⟩ 254 ⟨ON, OFF, OFF⟩ 0).block.duty ≠ 255#8 := by decide

/-- A write that changes an intensity just before the wrap tick; a reading other than the stored one; different values;
triples that differ in one channel; a write of a value other than 0. -/
theorem witness_OtherPairsDoNotCommute :
    isWrite (.wrR 99) = true ∧ nextHas (exec (.wrR 99) atTop) (fun t => decide (t.block.x ≠ atTop.block.x)) = true ∧
    atTop.block.duty = 255#8 ∧ (0x90#8 ≠ atTop.block.ambient) ∧ (0#8 ≠ 255#8) ∧
    ((1#8 ≠ 1#8) ∨ (2#8 ≠ 2#8) ∨ (3#8 ≠ 4#8)) ∧ written .blue (.wrB 255) = some 255#8 ∧ (255#8 ≠ 0#8) := by decide

/-- A reading, given or already stored, other than the next draw, whatever that is. -/
theorem witness_OtherPairsDoNotCommute_draw :
    let v := Config.ambientReset 1 + 1#8
    let s := st ⟨0, 0, 0⟩ ⟨0, 0, 0⟩ 7 ⟨OFF, OFF, OFF⟩ v
    v ≠ Config.ambientReset s.draws ∧ s.block.ambient ≠ Config.ambientReset s.draws := by
  have h : Config.ambientReset 1 + 1#8 ≠ Config.ambientReset 1 := by bv_omega
  exact ⟨h, h⟩

theorem witness_HostLearnsNothingOfTheRenderer :
    let a := st ⟨1, 2, 3⟩ ⟨4, 5, 6⟩ 7 ⟨ON, OFF, ON⟩ 0x40
    a.block.ambient = dark.block.ambient ∧ a.record = dark.record ∧ a.draws = dark.draws ∧ a ≠ dark := by decide

theorem witness_FirstPartialFrameIsDark :
    NoReset (List.replicate (255 - Config.dutyReset.toNat) .tick) ∧
    Config.dutyReset.toNat + tickCount (List.replicate (255 - Config.dutyReset.toNat) .tick) ≤ 255 := by
  have := Config.dutyReset.isLt
  refine ⟨(ticks_facts _).1, ?_⟩
  rw [(ticks_facts _).2.2]
  omega

theorem witness_WrittenColourIsLatchedAtTheNextWrap :
    NoReset [.tick] ∧ NoWrite [.tick] ∧ tickCount [.tick] = 256 - atTop.block.duty.toNat ∧
    tickCount [.tick] < 256 - dark.block.duty.toNat ∧ tickCount [] < 256 - atTop.block.duty.toNat := by decide

/-- The last interval in which the line is still ON. -/
theorem witness_ClearDoesNotDarkenALineAtOnce :
    OutputInvariant (st ⟨0, 0, 0⟩ ⟨9, 0, 0⟩ 7 ⟨ON, OFF, OFF⟩ 0).block ∧ NoReset [.tick] ∧
    (st ⟨0, 0, 0⟩ ⟨9, 0, 0⟩ 7 ⟨ON, OFF, OFF⟩ 0).block.duty.toNat + tickCount [.tick] <
      ((st ⟨0, 0, 0⟩ ⟨9, 0, 0⟩ 7 ⟨ON, OFF, OFF⟩ 0).block.l.get .red).toNat :=
  ⟨by unfold OutputInvariant; intro c; cases c <;> decide, by decide, by decide⟩

theorem witness_TripleWriteIsNeverLatchedInPart :
    NoReset [.tick, .sample 1] ∧ NoReset [.tick] ∧ NoWrite [.tick, .sample 1] ∧ NoWrite [.tick] := by decide

/-- The wrap tick after the first and after the second of the writes, in two orders; the first interval and the last. -/
theorem witness_ByteWritesCanBeLatchedInPart :
    atTop.block.duty = 255#8 ∧
    ([Instr.wrR 1] ++ [Instr.wrG 2, Instr.wrB 3]).Perm [Instr.wrR 1, .wrG 2, .wrB 3] ∧
    ([Instr.wrB 3, Instr.wrR 1] ++ [Instr.wrG 2]).Perm [Instr.wrR 1, .wrG 2, .wrB 3] ∧
    (NoReset [] ∧ tickCount [] ≤ 255) ∧
    NoReset (List.replicate 255 .tick) ∧ NoWrite (List.replicate 255 .tick) ∧ tickCount (List.replicate 255 .tick) = 255 :=
  ⟨rfl, by decide, by decide, by decide, ticks_facts 255⟩

theorem witness_FairRunsLatchAndRefresh : Fair fairRun ∧ ∀ n, fairRun n ≠ .reset := by
  refine ⟨fun n => ⟨⟨3 * n, by omega, ?_⟩, ⟨3 * n + 2, 5#8, by omega, ?_⟩⟩, fun n => ?_⟩
  · rw [fairRun, if_neg (by omega)]
  · rw [fairRun, if_pos (by omega)]
  · unfold fairRun
    split <;> simp

end Sys2Proof.Tests
end

/-! What every run of operations does: it completes, and it is its first operation and then the rest. -/

namespace Sys2Proof.Machine

/-- Every operation has a next state (R78). -/
theorem exec_total (i : Instr) (s : State) : ∃ t, exec i s = .next t := by
  cases i <;> exact ⟨_, rfl⟩

/-- Every run of operations has a last state (R78). -/
theorem runOps_total (ops : List Instr) (s : State) : ∃ t, runOps ops s = .next t := by
  induction ops generalizing s with
  | nil => exact ⟨s, rfl⟩
  | cons i is ih =>
    obtain ⟨t, ht⟩ := exec_total i s
    obtain ⟨u, hu⟩ := ih t
    exact ⟨u, (runOps_cons ht is).trans hu⟩

/-- A run that reaches a state performs its first operation and then the others. -/
theorem exists_exec_of_runOps_cons {i : Instr} {is : List Instr} {s u : State} (h : runOps (i :: is) s = .next u) :
    ∃ t, exec i s = .next t ∧ runOps is t = .next u := by
  obtain ⟨t, ht⟩ := exec_total i s
  exact ⟨t, ht, (runOps_cons ht is).symm.trans h⟩

theorem exec_tick (s : State) : exec .tick s = .next (s.withBlock s.block.tick) := rfl

@[simp] theorem tickCount_nil : tickCount [] = 0 := rfl

@[simp] theorem tickCount_tick_cons (is : List Instr) : tickCount (.tick :: is) = tickCount is + 1 :=
  List.count_cons_self

theorem tickCount_cons_of_ne {i : Instr} (hi : i ≠ .tick) (is : List Instr) : tickCount (i :: is) = tickCount is :=
  List.count_cons_of_ne hi

theorem noReset_cons {i : Instr} {is : List Instr} : NoReset (i :: is) ↔ i ≠ .reset ∧ NoReset is := by
  rw [NoReset, List.mem_cons, not_or, ne_comm]

/-- No operation but `TICK` and `RESET` touches the counter, the latched values or the lines (10_state.md section 6). -/
theorem exec_keeps_renderer {i : Instr} {s t : State} (hi : i ≠ .tick) (hr : i ≠ .reset) (h : exec i s = .next t) :
    t.block.duty = s.block.duty ∧ t.block.l = s.block.l ∧ t.block.out = s.block.out := by
  cases i with
  | tick => exact absurd rfl hi
  | reset => exact absurd rfl hr
  | sample v => cases h; exact ⟨rfl, rfl, rfl⟩
  | wrR v => cases h; exact ⟨rfl, rfl, rfl⟩
  | wrG v => cases h; exact ⟨rfl, rfl, rfl⟩
  | wrB v => cases h; exact ⟨rfl, rfl, rfl⟩
  | wrRgb r g b => cases h; exact ⟨rfl, rfl, rfl⟩
  | rdAmb => cases h; exact ⟨rfl, rfl, rfl⟩

/-- After any operation but `RESET` the intensity of a channel is the value written to it, or its old one if none was. -/
theorem exec_x_get {i : Instr} {s t : State} (hr : i ≠ .reset) (h : exec i s = .next t) (c : Channel) :
    t.block.x.get c = (written c i).getD (s.block.x.get c) := by
  cases i with
  | tick => cases h; exact congrArg (Rgb.get · c) (tick_x s.block)
  | reset => exact absurd rfl hr
  | sample v => cases h; rfl
  | wrR v => cases h; cases c <;> rfl
  | wrG v => cases h; cases c <;> rfl
  | wrB v => cases h; cases c <;> rfl
  | wrRgb r g b => cases h; rfl
  | rdAmb => cases h; rfl

/-! Two states that agree on the counter and on what one channel's line follows: its latched value and its level. -/

/-- Two register files agree on the counter and on the latched value and the line of one channel. Its intensity, which the
next wrap tick alone looks at, is left open. -/
structure LineAgrees (c : Channel) (b b' : Block) : Prop where
  duty    : b.duty = b'.duty
  latched : b.l.get c = b'.l.get c
  line    : b.out.get c = b'.out.get c

/-- They agree also on the intensity: all that the channel's line will ever follow without further writes. -/
structure ChannelAgrees (c : Channel) (b b' : Block) : Prop extends LineAgrees c b b' where
  intensity : b.x.get c = b'.x.get c

/-- A `TICK` keeps the agreement; the intensities must agree only where it is the wrap tick. -/
theorem LineAgrees.tick {c : Channel} {b b' : Block} (h : LineAgrees c b b')
    (hx : b.duty = 255#8 → b.x.get c = b'.x.get c) : LineAgrees c b.tick b'.tick := by
  have hduty : b.tick.duty = b'.tick.duty := by rw [tick_duty, tick_duty, h.duty]
  by_cases hw : b.duty = 255#8
  · have hw' : b'.duty = 255#8 := h.duty.symm.trans hw
    refine ⟨hduty, ?_, ?_⟩
    · rw [tick_l, tick_l, if_pos hw, if_pos hw', hx hw]
    · rw [tick_out_wrap hw, tick_out_wrap hw', hx hw]
  · have hw' : b'.duty ≠ 255#8 := fun e => hw (h.duty.trans e)
    refine ⟨hduty, ?_, ?_⟩
    · rw [tick_l, tick_l, if_neg hw, if_neg hw', h.latched]
    · rw [tick_out_inside hw, tick_out_inside hw', h.duty, h.latched, h.line]

/-- The same operation, performed in two states that agree on a channel, keeps the agreement. -/
theorem ChannelAgrees.exec {c : Channel} {i : Instr} {s s' t t' : State} (h : ChannelAgrees c s.block s'.block)
    (ht : exec i s = .next t) (ht' : exec i s' = .next t') : ChannelAgrees c t.block t'.block := by
  by_cases hr : i = .reset
  · subst hr; cases ht; cases ht'
    exact ⟨⟨rfl, rfl, rfl⟩, rfl⟩
  have hx : t.block.x.get c = t'.block.x.get c := by rw [exec_x_get hr ht, exec_x_get hr ht', h.intensity]
  by_cases hi : i = .tick
  · subst hi; cases ht; cases ht'
    exact ⟨h.toLineAgrees.tick fun _ => h.intensity, hx⟩
  · obtain ⟨hd, hl, ho⟩ := exec_keeps_renderer hi hr ht
    obtain ⟨hd', hl', ho'⟩ := exec_keeps_renderer hi hr ht'
    exact ⟨⟨by rw [hd, hd', h.duty], by rw [hl, hl', h.latched], by rw [ho, ho', h.line]⟩, hx⟩

/-- So does the same run. -/
theorem ChannelAgrees.runOps {c : Channel} {ops : List Instr} {s s' t t' : State} (h : ChannelAgrees c s.block s'.block)
    (ht : runOps ops s = .next t) (ht' : runOps ops s' = .next t') : ChannelAgrees c t.block t'.block := by
  induction ops generalizing s s' with
  | nil => cases ht; cases ht'; exact h
  | cons i is ih =>
    obtain ⟨u, hu, hrest⟩ := exists_exec_of_runOps_cons ht
    obtain ⟨u', hu', hrest'⟩ := exists_exec_of_runOps_cons ht'
    exact ih (h.exec hu hu') hrest hrest'

/-! Up to the next wrap tick a run moves the renderer as its `TICK`s alone would (R32, R58). -/

/-- Where the counter's top leaves room for a further tick, that is not the wrap tick, and the room shrinks by one. -/
theorem tick_room {b : Block} {n : Nat} (hn : b.duty.toNat + (n + 1) ≤ 255) :
    b.duty ≠ 255#8 ∧ b.tick.duty.toNat + n ≤ 255 := by
  have hw : b.duty ≠ 255#8 := by intro e; simp [e] at hn
  refine ⟨hw, ?_⟩
  rw [tick_duty, inc8_toNat hw]
  omega

/-- `n` ticks that the counter's top leaves room for latch nothing (R54). -/
theorem iterate_tick_l {b : Block} {n : Nat} (hn : b.duty.toNat + n ≤ 255) : (Block.tick^[n] b).l = b.l := by
  induction n generalizing b with
  | zero => rfl
  | succ n ih =>
    obtain ⟨hw, hroom⟩ := tick_room hn
    rw [Function.iterate_succ_apply, ih hroom, tick_l, if_neg hw]

/-- A run without a wrap tick leaves the counter and each channel's latched value and line as its `TICK`s alone leave
them, whatever is written among them. -/
theorem LineAgrees.runOps_ticks {c : Channel} {ops : List Instr} {s t : State} {b : Block} (h : LineAgrees c s.block b)
    (hnr : NoReset ops) (hn : b.duty.toNat + tickCount ops ≤ 255) (ht : runOps ops s = .next t) :
    LineAgrees c t.block (Block.tick^[tickCount ops] b) := by
  induction ops generalizing s b with
  | nil => cases ht; exact h
  | cons i is ih =>
    obtain ⟨u, hu, hrest⟩ := exists_exec_of_runOps_cons ht
    obtain ⟨hr, hnr'⟩ := noReset_cons.mp hnr
    by_cases hi : i = .tick
    · subst hi; cases hu
      rw [tickCount_tick_cons] at hn ⊢
      obtain ⟨hw, hroom⟩ := tick_room hn
      exact ih (h.tick fun e => absurd (h.duty.symm.trans e) hw) hnr' hroom hrest
    · rw [tickCount_cons_of_ne hi] at hn ⊢
      obtain ⟨hd, hl, ho⟩ := exec_keeps_renderer hi hr hu
      exact ih ⟨hd.trans h.duty, hl ▸ h.latched, ho ▸ h.line⟩ hnr' hn hrest

/-- Settles O29: both runs agree with their `TICK`s alone, which are equally many and latch nothing; from the wrap tick on
the two states agree on every channel as soon as their intensities do. -/
theorem writesWaitForTheWrapTick : Obligations.WritesWaitForTheWrapTick := by
  intro s as bs has hbs hcount hn
  obtain ⟨t, ht⟩ := runOps_total as s
  obtain ⟨u, hu⟩ := runOps_total bs s
  have hts (c) : LineAgrees c t.block (Block.tick^[tickCount as] s.block) :=
    LineAgrees.runOps_ticks ⟨rfl, rfl, rfl⟩ has hn ht
  have hus (c) : LineAgrees c u.block (Block.tick^[tickCount as] s.block) :=
    hcount ▸ LineAgrees.runOps_ticks ⟨rfl, rfl, rfl⟩ hbs (hcount ▸ hn) hu
  have hlines : t.block.out = u.block.out := Rgb.ext_get fun c => (hts c).line.trans (hus c).line.symm
  have htl : t.block.l = s.block.l := (Rgb.ext_get fun c => (hts c).latched).trans (iterate_tick_l hn)
  have hul : u.block.l = s.block.l := (Rgb.ext_get fun c => (hus c).latched).trans (iterate_tick_l hn)
  have hduty : t.block.duty = u.block.duty := (hts .red).duty.trans (hus .red).duty.symm
  refine ⟨t, u, ht, hu, hlines, htl, hul, hduty, fun hw => ⟨⟨_, exec_tick t, by simp [tick_l, hw]⟩, fun hx later => ?_⟩⟩
  obtain ⟨t', ht'⟩ := runOps_total (.tick :: later) t
  obtain ⟨u', hu'⟩ := runOps_total (.tick :: later) u
  have hnow (c) : ChannelAgrees c t.block u.block := ⟨⟨hduty, by rw [htl, hul], by rw [hlines]⟩, by rw [hx]⟩
  have hlater (c) : ChannelAgrees c t'.block u'.block := (hnow c).runOps ht' hu'
  exact ⟨t', u', ht', hu', Rgb.ext_get fun c => (hlater c).line, Rgb.ext_get fun c => (hlater c).latched⟩

end Sys2Proof.Machine

/-! Event words taken apart (30_encoding.md): a word is its five fields, and it spells an operation exactly when it is that
operation's own word. -/

namespace Sys2Proof.Machine

/-- Two words are equal when their five fields are (R38). -/
theorem word_eq_iff_fields {e e' : Word} : e = e' ↔
    opField e = opField e' ∧ rsvField e = rsvField e' ∧ byte2 e = byte2 e' ∧ byte1 e = byte1 e' ∧ byte0 e = byte0 e' := by
  refine ⟨fun h => by simp [h], fun h => ?_⟩
  simp only [← BitVec.toNat_inj, toNat_opField, toNat_rsvField, toNat_byte2, toNat_byte1, toNat_byte0] at h ⊢
  omega

theorem eq_joinFields_iff {e : Word} {op : BitVec 4} {p2 p1 p0 : Byte} : e = joinFields op p2 p1 p0 ↔
    opField e = op ∧ rsvField e = 0#4 ∧ byte2 e = p2 ∧ byte1 e = p1 ∧ byte0 e = p0 := by
  simp [word_eq_iff_fields]

/-- An operation's word is its row's match plus its payload bytes in their places, as the words are written (R39, R40). -/
theorem joinFields_eq_add (op : BitVec 4) (p2 p1 p0 : Byte) : joinFields op p2 p1 p0 =
    joinFields op 0#8 0#8 0#8 + p2.setWidth 32 * 65536#32 + p1.setWidth 32 * 256#32 + p0.setWidth 32 := by
  have := op.isLt; have := p2.isLt; have := p1.isLt; have := p0.isLt
  apply BitVec.eq_of_toNat_eq
  simp only [toNat_joinFields, BitVec.toNat_add, BitVec.toNat_mul, BitVec.toNat_setWidth, BitVec.toNat_ofNat]
  omega

theorem bits4_and_ones (x : BitVec 4) : x &&& 0xF#4 = x := BitVec.and_allOnes

theorem byte_and_ones (x : Byte) : x &&& 0xFF#8 = x := BitVec.and_allOnes

/-- The mask of format B looks at all but payload byte 0 (R39, R40). -/
theorem and_byteMask_eq_iff {e : Word} {op : BitVec 4} : e &&& 0xFFFFFF00#32 = joinFields op 0#8 0#8 0#8 ↔
    opField e = op ∧ rsvField e = 0#4 ∧ byte2 e = 0#8 ∧ byte1 e = 0#8 := by
  simp [eq_joinFields_iff, opField, rsvField, byte2, byte1, byte0, BitVec.extractLsb'_and, bits4_and_ones, byte_and_ones]

/-- The mask of format T looks at `op` and `rsv` only (R39, R40). -/
theorem and_tripleMask_eq_iff {e : Word} {op : BitVec 4} : e &&& 0xFF000000#32 = joinFields op 0#8 0#8 0#8 ↔
    opField e = op ∧ rsvField e = 0#4 := by
  simp [eq_joinFields_iff, opField, rsvField, byte2, byte1, byte0, BitVec.extractLsb'_and, bits4_and_ones]

/-- A word matches a row of format B exactly when it is the row's word for some operand. -/
theorem exists_eq_joinFields_byte_iff {e : Word} {op : BitVec 4} :
    (∃ v, e = joinFields op 0#8 0#8 v) ↔ e &&& 0xFFFFFF00#32 = joinFields op 0#8 0#8 0#8 := by
  simp [eq_joinFields_iff (e := e), and_byteMask_eq_iff]

/-- A word matches the row of format T exactly when it is the row's word for some operands. -/
theorem exists_eq_joinFields_triple_iff {e : Word} {op : BitVec 4} :
    (∃ r g b, e = joinFields op b g r) ↔ e &&& 0xFF000000#32 = joinFields op 0#8 0#8 0#8 := by
  simp [eq_joinFields_iff (e := e), and_tripleMask_eq_iff]

/-! What `decode` can answer, said once. -/

theorem encode_row (i : Instr) : Laws.TableRow.Statement i := by
  cases i with
  | tick => exact Laws.TableRow.tick
  | sample v => exact Laws.TableRow.sample v
  | wrR v => exact Laws.TableRow.wrR v
  | wrG v => exact Laws.TableRow.wrG v
  | wrB v => exact Laws.TableRow.wrB v
  | wrRgb r g b => exact Laws.TableRow.wrRgb r g b
  | rdAmb => exact Laws.TableRow.rdAmb
  | reset => exact Laws.TableRow.reset

theorem formatOfOp_row (i : Instr) : formatOfOp i.row.opcode = some i.row.format := by cases i <;> rfl

theorem formatOfOp_eq_some_none_iff (op : BitVec 4) : formatOfOp op = some .none ↔ op = 0x1#4 ∨ op = 0x7#4 ∨ op = 0xF#4 := by
  revert op; decide

theorem formatOfOp_eq_some_byte_iff (op : BitVec 4) :
    formatOfOp op = some .byte ↔ op = 0x2#4 ∨ op = 0x3#4 ∨ op = 0x4#4 ∨ op = 0x5#4 := by
  revert op; decide

theorem formatOfOp_eq_some_triple_iff (op : BitVec 4) : formatOfOp op = some .triple ↔ op = 0x6#4 := by
  revert op; decide

theorem formatOfOp_eq_none_iff (op : BitVec 4) : formatOfOp op = none ↔ op = 0x0#4 ∨ (0x8#4 ≤ op ∧ op ≤ 0xE#4) := by
  revert op; decide

theorem decode_encode (i : Instr) : decode (encode i) = .ok i := by
  cases i <;> simp [decode, encode]

/-- The four things that a word can be to the decoder (R40, R42, R43): `rsv` is looked at first, then `op`, then the payload
bytes that the format of `op` does not use. -/
inductive Verdict (e : Word) : Prop where
  | reserved (hrsv : rsvField e ≠ 0#4) (hd : decode e = .error .reservedBits)
  | unknownOp (hrsv : rsvField e = 0#4) (hop : formatOfOp (opField e) = none) (hd : decode e = .error .reservedOp)
  | unusedPayload (f : Format) (hrsv : rsvField e = 0#4) (hop : formatOfOp (opField e) = some f)
      (hpay : f.payloadOk e = false) (hd : decode e = .error .reservedBits)
  | accepted (i : Instr) (he : e = encode i)

/-- A row of format N: no payload bit may be set. -/
theorem Verdict.of_none {e : Word} {op : BitVec 4} {i : Instr} (hrsv : rsvField e = 0#4) (hop : opField e = op)
    (hf : formatOfOp op = some .none) (hi : encode i = joinFields op 0#8 0#8 0#8)
    (hd : decode e = if byte2 e = 0#8 ∧ byte1 e = 0#8 ∧ byte0 e = 0#8 then .ok i else .error .reservedBits) : Verdict e := by
  by_cases hp : byte2 e = 0#8 ∧ byte1 e = 0#8 ∧ byte0 e = 0#8
  · exact .accepted i (hi ▸ eq_joinFields_iff.mpr ⟨hop, hrsv, hp⟩)
  · exact .unusedPayload .none hrsv (hop ▸ hf) (by simpa [Format.payloadOk] using hp) (by rw [hd, if_neg hp])

/-- A row of format B: payload byte 0 is the operand. -/
theorem Verdict.of_byte {e : Word} {op : BitVec 4} {i : Byte → Instr} (hrsv : rsvField e = 0#4) (hop : opField e = op)
    (hf : formatOfOp op = some .byte) (hi : ∀ v, encode (i v) = joinFields op 0#8 0#8 v)
    (hd : decode e = if byte2 e = 0#8 ∧ byte1 e = 0#8 then .ok (i (byte0 e)) else .error .reservedBits) : Verdict e := by
  by_cases hp : byte2 e = 0#8 ∧ byte1 e = 0#8
  · exact .accepted (i (byte0 e)) (hi _ ▸ eq_joinFields_iff.mpr ⟨hop, hrsv, hp.1, hp.2, rfl⟩)
  · exact .unusedPayload .byte hrsv (hop ▸ hf) (by simpa [Format.payloadOk] using hp) (by rw [hd, if_neg hp])

theorem decode_verdict (e : Word) : Verdict e := by
  by_cases hrsv : rsvField e = 0#4
  case neg => exact .reserved hrsv (by simp [decode, hrsv])
  match hf : formatOfOp (opField e) with
  | none =>
    refine .unknownOp hrsv hf ?_
    rw [formatOfOp] at hf
    split_ifs at hf
    simp [decode, *]
  | some .triple =>
    have hop := (formatOfOp_eq_some_triple_iff _).mp hf
    exact .accepted (.wrRgb (byte0 e) (byte1 e) (byte2 e)) (eq_joinFields_iff.mpr ⟨hop, hrsv, rfl, rfl, rfl⟩)
  | some .none =>
    obtain hop | hop | hop := (formatOfOp_eq_some_none_iff _).mp hf
    · exact .of_none (i := .tick) hrsv hop rfl rfl (by simp [decode, hrsv, hop])
    · exact .of_none (i := .rdAmb) hrsv hop rfl rfl (by simp [decode, hrsv, hop])
    · exact .of_none (i := .reset) hrsv hop rfl rfl (by simp [decode, hrsv, hop])
  | some .byte =>
    obtain hop | hop | hop | hop := (formatOfOp_eq_some_byte_iff _).mp hf
    · exact .of_byte (i := .sample) hrsv hop rfl (fun _ => rfl) (by simp [decode, hrsv, hop])
    · exact .of_byte (i := .wrR) hrsv hop rfl (fun _ => rfl) (by simp [decode, hrsv, hop])
    · exact .of_byte (i := .wrG) hrsv hop rfl (fun _ => rfl) (by simp [decode, hrsv, hop])
    · exact .of_byte (i := .wrB) hrsv hop rfl (fun _ => rfl) (by simp [decode, hrsv, hop])

/-- A word spells an operation exactly when it is the operation's own word (R45). -/
theorem decode_eq_ok_iff {e : Word} {i : Instr} : decode e = .ok i ↔ e = encode i := by
  refine ⟨fun h => ?_, fun h => h ▸ decode_encode i⟩
  cases decode_verdict e with
  | reserved _ hd => cases hd.symm.trans h
  | unknownOp _ _ hd => cases hd.symm.trans h
  | unusedPayload _ _ _ _ hd => cases hd.symm.trans h
  | accepted j he => subst he; cases (decode_encode j).symm.trans h; rfl

theorem decode_eq_reservedBits_iff {e : Word} : decode e = .error .reservedBits ↔
    rsvField e ≠ 0#4 ∨ ∃ f, formatOfOp (opField e) = some f ∧ f.payloadOk e = false := by
  cases decode_verdict e with
  | reserved hrsv hd => simp [hd, hrsv]
  | unknownOp hrsv hop hd => simp [hd, hrsv, hop]
  | unusedPayload f hrsv hop hpay hd => simp [hd, hop, hpay]
  | accepted i he =>
    obtain ⟨hop, hrsv, hpay⟩ := encode_row i
    simp [he, decode_encode, hop, hrsv, hpay, formatOfOp_row]

theorem decode_eq_reservedOp_iff {e : Word} : decode e = .error .reservedOp ↔
    rsvField e = 0#4 ∧ formatOfOp (opField e) = none := by
  cases decode_verdict e with
  | reserved hrsv hd => simp [hd, hrsv]
  | unknownOp hrsv hop hd => simp [hd, hrsv, hop]
  | unusedPayload f hrsv hop hpay hd => simp [hd, hop]
  | accepted i he => simp [he, decode_encode, (encode_row i).1, formatOfOp_row]

theorem decode_ne_badAccess (e : Word) : decode e ≠ .error .badAccess := by
  cases decode_verdict e with
  | reserved _ hd => simp [hd]
  | unknownOp _ _ hd => simp [hd]
  | unusedPayload _ _ _ _ hd => simp [hd]
  | accepted i he => simp [he, decode_encode]

/-- Settles O4: a word spells an operation of a row exactly when it is the row's word for some operands, which is what the
row's mask and match say; that word carries the row's `op` and no unused payload. -/
theorem maskAndMatchDecideTheOperation : Obligations.MaskAndMatchDecideTheOperation := by
  refine ⟨fun e => ?_, fun e i h => ?_, fun v r g b => ⟨rfl, rfl, rfl, rfl, rfl, rfl, rfl, rfl⟩⟩
  · have hfull : e &&& 0xFFFFFFFF#32 = e := BitVec.and_allOnes
    simp only [decode_eq_ok_iff, hfull]
    exact ⟨.rfl, exists_eq_joinFields_byte_iff, exists_eq_joinFields_byte_iff, exists_eq_joinFields_byte_iff,
      exists_eq_joinFields_byte_iff, exists_eq_joinFields_triple_iff, .rfl, .rfl⟩
  · obtain rfl := decode_eq_ok_iff.mp h
    obtain ⟨hop, -, hpay⟩ := encode_row i
    exact ⟨hop, hpay⟩

/-- Settles O5: an operand of an accepted word is a payload byte of the operation's own word, and every sum of the second
half is such a word. -/
theorem operandsArePayloadBytes : Obligations.OperandsArePayloadBytes := by
  simp only [Obligations.OperandsArePayloadBytes, decode_eq_ok_iff, encode]
  refine ⟨fun e v h => ?_, fun e r g b h => ?_, fun v r g b => ?_⟩
  · obtain rfl | rfl | rfl | rfl := h <;> exact (byte0_joinFields ..).symm
  · subst h
    exact ⟨(byte0_joinFields ..).symm, (byte1_joinFields ..).symm, (byte2_joinFields ..).symm⟩
  · have hbyte (op) : joinFields op 0#8 0#8 v = joinFields op 0#8 0#8 0#8 + v.setWidth 32 := by
      rw [joinFields_eq_add]; simp
    exact ⟨(hbyte 0x2#4).symm, (hbyte 0x3#4).symm, (hbyte 0x4#4).symm, (hbyte 0x5#4).symm, (joinFields_eq_add 0x6#4 b g r).symm⟩

end Sys2Proof.Machine

/-! Steps that take an event of each kind: what refuses, and what a single pulse does. -/

namespace Sys2Proof.Machine

/-- The boundary's refusals keep the names of the rejections. -/
theorem refusal_inj {r r' : Reject} : r.refusal = r'.refusal ↔ r = r' := by
  cases r <;> cases r' <;> simp [Reject.refusal]

theorem decodeAccess_eq_error_iff {a : BusAccess} {r : Reject} :
    decodeAccess a = .error r ↔ r = .badAccess ∧ a.wellFormed = false := by
  cases a with
  | write offset size w =>
    simp only [decodeAccess, BusAccess.wellFormed]
    grind
  | read offset size =>
    simp only [decodeAccess, BusAccess.wellFormed]
    grind

@[simp] theorem hReq_mem_pulses {p : Pins} : Pulse.hReq ∈ p.pulses ↔ p.hReq = true := by
  simp [Pins.pulses]

/-- Only the host's pulse can be rejected, and then for the access that its pins spell. -/
theorem operation_eq_error {p : Pins} {q : Pulse} {r : Reject} (h : p.operation q = .error r) :
    q = .hReq ∧ decodeAccess p.access = .error r := by
  cases q with
  | rst => cases h
  | tick => cases h
  | adcDone => cases h
  | hReq => exact ⟨rfl, h⟩

theorem takePulse_eq_error {s t : State} {p : Pins} {rest : List Input} {r : Reject}
    (h : s.takePulse p rest = (some (.error r), t)) : p.hReq = true ∧ decodeAccess p.access = .error r := by
  have hpulse : ∃ q ∈ p.pulses, p.operation q = .error r := by
    match hp : p.pulses with
    | [] => rw [takePulse_none hp] at h; cases h
    | [q] =>
      rw [takePulse_one hp] at h
      exact ⟨q, by simp, by simpa using congrArg Prod.fst h⟩
    | q :: q' :: qs =>
      obtain ⟨k, hk, htake⟩ := takePulse_many (s := s) (rest := rest) (show 2 ≤ p.pulses.length by simp [hp])
      rw [htake] at h
      exact ⟨k, hp ▸ hk, by simpa using congrArg Prod.fst h⟩
  obtain ⟨q, hmem, hq⟩ := hpulse
  obtain ⟨rfl, hd⟩ := operation_eq_error hq
  exact ⟨hReq_mem_pulses.mp hmem, hd⟩

/-- Where a rejected event comes from: a word, an access on the bus, or an access at the pins. -/
theorem fetch_eq_error {s t : State} {r : Reject} (h : s.fetch = (some (.error r), t)) :
    (∃ e rest, s.input = .word e :: rest ∧ decode e = .error r) ∨
    (∃ a rest, s.input = .bus a :: rest ∧ decodeAccess a = .error r) ∨
    (∃ p rest, s.input = .pins p :: rest ∧ p.hReq = true ∧ decodeAccess p.access = .error r) := by
  match hi : s.input with
  | [] => rw [fetch_nil hi] at h; cases h
  | .word e :: rest =>
    rw [fetch_word hi] at h
    exact .inl ⟨e, rest, rfl, by simpa using congrArg Prod.fst h⟩
  | .bus a :: rest =>
    rw [fetch_bus hi] at h
    exact .inr (.inl ⟨a, rest, rfl, by simpa using congrArg Prod.fst h⟩)
  | .pins p :: rest =>
    rw [fetch_pins hi] at h
    exact .inr (.inr ⟨p, rest, rfl, takePulse_eq_error h⟩)

/-- A step refuses only a rejected event: no operation is refused (R78). -/
theorem exists_fetch_of_step_refused {s : State} {x : Refusal} (h : step s = .refused x) :
    ∃ r t, s.fetch = (some (.error r), t) ∧ r.refusal = x := by
  match hf : s.fetch with
  | (none, t) => cases (step_of_fetch_none hf).symm.trans h
  | (some (.ok i), t) =>
    obtain ⟨u, hu⟩ := exec_total i t
    cases hu.symm.trans ((step_of_fetch_ok hf).symm.trans h)
  | (some (.error r), t) =>
    cases (step_of_fetch_error hf).symm.trans h
    exact ⟨r, t, rfl, rfl⟩

/-- A step refuses with a name of the decoder exactly where the next event is a word that the decoder rejects so. -/
theorem step_refused_iff_word {s : State} {r : Reject} (hr : r ≠ .badAccess) :
    step s = .refused r.refusal ↔ ∃ e rest, s.input = .word e :: rest ∧ decode e = .error r := by
  constructor
  · intro h
    obtain ⟨r', t, hf, hname⟩ := exists_fetch_of_step_refused h
    obtain rfl := refusal_inj.mp hname
    obtain hw | ⟨a, rest, -, ha⟩ | ⟨p, rest, -, -, ha⟩ := fetch_eq_error hf
    · exact hw
    · exact absurd (decodeAccess_eq_error_iff.mp ha).1 hr
    · exact absurd (decodeAccess_eq_error_iff.mp ha).1 hr
  · rintro ⟨e, rest, hi, hd⟩
    exact step_of_fetch_error (hd ▸ fetch_word hi)

theorem step_refused_badAccess {s : State} (h : step s = .refused .badAccess) : ∃ a : BusAccess, a.wellFormed = false ∧
    ((∃ rest, s.input = .bus a :: rest) ∨ (∃ p rest, s.input = .pins p :: rest ∧ p.hReq = true ∧ p.access = a)) := by
  obtain ⟨r, t, hf, hname⟩ := exists_fetch_of_step_refused h
  obtain rfl : r = .badAccess := refusal_inj.mp hname
  obtain ⟨e, rest, -, hd⟩ | ⟨a, rest, hi, ha⟩ | ⟨p, rest, hi, hreq, ha⟩ := fetch_eq_error hf
  · exact absurd hd (decode_ne_badAccess e)
  · exact ⟨a, (decodeAccess_eq_error_iff.mp ha).2, .inl ⟨rest, hi⟩⟩
  · exact ⟨p.access, (decodeAccess_eq_error_iff.mp ha).2, .inr ⟨p, rest, hi, hreq, rfl⟩⟩

theorem step_bus_refused_iff {s : State} {a : BusAccess} {rest : List Input} (hi : s.input = .bus a :: rest) :
    step s = .refused .badAccess ↔ a.wellFormed = false := by
  refine ⟨fun h => ?_, fun h => ?_⟩
  · obtain ⟨a', ha', ⟨_, hi'⟩ | ⟨p, _, hi', _⟩⟩ := step_refused_badAccess h
    · cases hi.symm.trans hi'; exact ha'
    · cases hi.symm.trans hi'
  · have hd : decodeAccess a = .error .badAccess := decodeAccess_eq_error_iff.mpr ⟨rfl, h⟩
    exact step_of_fetch_error (hd ▸ fetch_bus hi)

theorem payloadOk_none_eq_false_iff (e : Word) : Format.none.payloadOk e = false ↔ e.extractLsb' 0 24 ≠ 0#24 := by
  simp only [Format.payloadOk, Bool.and_eq_false_iff, beq_eq_false_iff_ne, ne_eq, ← BitVec.toNat_inj, toNat_byte2, toNat_byte1,
    toNat_byte0, BitVec.extractLsb'_toNat, BitVec.toNat_ofNat, Nat.shiftRight_eq_div_pow]
  omega

theorem payloadOk_byte_eq_false_iff (e : Word) : Format.byte.payloadOk e = false ↔ e.extractLsb' 8 16 ≠ 0#16 := by
  simp only [Format.payloadOk, Bool.and_eq_false_iff, beq_eq_false_iff_ne, ne_eq, ← BitVec.toNat_inj, toNat_byte2, toNat_byte1,
    BitVec.extractLsb'_toNat, BitVec.toNat_ofNat, Nat.shiftRight_eq_div_pow]
  omega

/-- The words with an unused payload bit set, by the `op` values of the formats N and B (R39, R40, R42). -/
theorem exists_format_payload_iff (e : Word) : (∃ f, formatOfOp (opField e) = some f ∧ f.payloadOk e = false) ↔
    ((opField e = 0x1#4 ∨ opField e = 0x7#4 ∨ opField e = 0xF#4) ∧ e.extractLsb' 0 24 ≠ 0#24) ∨
    ((opField e = 0x2#4 ∨ opField e = 0x3#4 ∨ opField e = 0x4#4 ∨ opField e = 0x5#4) ∧ e.extractLsb' 8 16 ≠ 0#16) := by
  rw [← formatOfOp_eq_some_none_iff, ← formatOfOp_eq_some_byte_iff, ← payloadOk_none_eq_false_iff, ← payloadOk_byte_eq_false_iff]
  constructor
  · rintro ⟨_ | _ | _, hf, hp⟩
    · exact .inl ⟨hf, hp⟩
    · exact .inr ⟨hf, hp⟩
    · cases hp
  · rintro (h | h)
    · exact ⟨_, h⟩
    · exact ⟨_, h⟩

/-- Settles O6: a refused step is a rejected event, and each decoder says which inputs it rejects and by which name. -/
theorem stepRefusesExactlyOnTheNamedCauses : Obligations.StepRefusesExactlyOnTheNamedCauses := by
  refine ⟨fun s => ?_, fun s => ?_, fun s => step_refused_badAccess, fun s a rest => step_bus_refused_iff, fun s m h => ?_⟩
  · have hcause := step_refused_iff_word (s := s) (r := .reservedBits) (by decide)
    simp only [decode_eq_reservedBits_iff, exists_format_payload_iff] at hcause
    exact hcause
  · have hcause := step_refused_iff_word (s := s) (r := .reservedOp) (by decide)
    simp only [decode_eq_reservedOp_iff, formatOfOp_eq_none_iff] at hcause
    exact hcause
  · obtain ⟨r, t, -, hname⟩ := exists_fetch_of_step_refused h
    cases r <;> cases hname

/-- An instant with one pulse is that pulse's operation. -/
theorem fetch_one_pulse {s : State} {p : Pins} {rest : List Input} {q : Pulse} (hi : s.input = .pins p :: rest)
    (hq : p.pulses = [q]) : s.fetch = (some (p.operation q), { s with input := rest }) :=
  (fetch_pins hi).trans (takePulse_one hq)

theorem step_one_pulse {s : State} {p : Pins} {rest : List Input} {q : Pulse} {i : Instr} (hi : s.input = .pins p :: rest)
    (hq : p.pulses = [q]) (hop : p.operation q = .ok i) : step s = exec i { s with input := rest } :=
  step_of_fetch_ok (hop ▸ fetch_one_pulse hi hq)

/-! The access that the host's pins spell (R5, R46). -/

section HostPins

variable {p : Pins}

theorem access_write8 (hw : p.hWe = true) (hs : p.hSize = false) : p.access = .write p.hAddr.toNat 1 p.hWdata := by
  simp [Pins.access, hw, hs]

theorem access_write32 (hw : p.hWe = true) (hs : p.hSize = true) : p.access = .write p.hAddr.toNat 4 p.hWdata := by
  simp [Pins.access, hw, hs]

theorem access_read8 (hw : p.hWe = false) (hs : p.hSize = false) : p.access = .read p.hAddr.toNat 1 := by
  simp [Pins.access, hw, hs]

theorem access_read32 (hw : p.hWe = false) (hs : p.hSize = true) : p.access = .read p.hAddr.toNat 4 := by
  simp [Pins.access, hw, hs]

end HostPins

/-- Settles O20: one pulse is its operation; the host's pulse is the access that its pins spell. -/
theorem onePulseIsOneOperation : Obligations.OnePulseIsOneOperation := by
  intro s p rest hi
  refine ⟨fun ⟨h1, h2, h3, h4⟩ => ?_, fun ⟨h1, h2, h3, h4⟩ => ?_, fun ⟨h1, h2, h3, h4⟩ => ?_, fun ⟨h1, h2, h3, h4⟩ => ?_⟩
  · exact step_one_pulse (q := .rst) hi (by simp [Pins.pulses, h1, h2, h3, h4]) rfl
  · exact step_one_pulse (q := .tick) hi (by simp [Pins.pulses, h1, h2, h3, h4]) rfl
  · exact step_one_pulse (q := .adcDone) hi (by simp [Pins.pulses, h1, h2, h3, h4]) rfl
  · have hq : p.pulses = [.hReq] := by simp [Pins.pulses, h1, h2, h3, h4]
    have hok {i : Instr} (h : decodeAccess p.access = .ok i) : step s = exec i { s with input := rest } :=
      step_one_pulse hi hq h
    have hbad (h : p.access.wellFormed = false) : step s = .refused .badAccess := by
      have hd : p.operation .hReq = .error .badAccess := decodeAccess_eq_error_iff.mpr ⟨rfl, h⟩
      exact step_of_fetch_error (hd ▸ fetch_one_pulse hi hq)
    refine ⟨fun ⟨hw, hs, ha⟩ => hok ?_, fun ⟨hw, hs, ha⟩ => hok ?_, fun ⟨hw, hs, ha⟩ => hok ?_, fun ⟨hw, hs, ha⟩ => hok ?_,
      fun ⟨hw, hs, ha⟩ => hok ?_, ?_⟩
    · rw [access_write8 hw hs, ha]; rfl
    · rw [access_write8 hw hs, ha]; rfl
    · rw [access_write8 hw hs, ha]; rfl
    · rw [access_write32 hw hs, ha]; rfl
    · rw [access_read8 hw hs, ha]; rfl
    · intro hport
      apply hbad
      obtain ⟨hw, hs, ha⟩ | ⟨hw, hs, ha⟩ | ⟨hw, hs, ha⟩ | ⟨hw, hs⟩ := hport
      · rw [access_write8 hw hs, ha]; rfl
      · simpa [access_write32 hw hs, BusAccess.wellFormed, ← BitVec.toNat_inj] using ha
      · simpa [access_read8 hw hs, BusAccess.wellFormed, ← BitVec.toNat_inj] using ha
      · simp [access_read32 hw hs, BusAccess.wellFormed]

/-! Runs of event words. -/

/-- No operation looks at the events that wait, or changes them. -/
theorem exec_withInput {i : Instr} {s t : State} (h : exec i s = .next t) (rest : List Input) :
    exec i { s with input := rest } = .next { t with input := rest } := by
  cases i <;> (cases h; rfl)

theorem core_run_succ (M : Host.Core) {s t : M.State} (h : M.step s = .next t) (n : Nat) : M.run (n + 1) s = M.run n t := by
  simp [Host.Core.run, h]

theorem runSteps_succ {s t : State} (h : step s = .next t) (n : Nat) : runSteps (n + 1) s = runSteps n t :=
  core_run_succ core h n

theorem step_word_encode {s : State} {i : Instr} {rest : List Input} (hi : s.input = .word (encode i) :: rest) :
    step s = exec i { s with input := rest } :=
  step_of_fetch_ok (decode_encode i ▸ fetch_word hi)

/-- The words of operations run as the operations (R44, R86). -/
theorem runSteps_words {ops : List Instr} {s : State} {rest : List Input}
    (hi : s.input = ops.map (fun i => .word (encode i)) ++ rest) :
    runSteps ops.length s = runOps ops { s with input := rest } := by
  induction ops generalizing s with
  | nil => cases s; cases hi; rfl
  | cons i is ih =>
    obtain ⟨t, ht⟩ := exec_total i s
    have hstep : step s = .next { t with input := is.map (fun i => .word (encode i)) ++ rest } :=
      (step_word_encode hi).trans (exec_withInput ht _)
    rw [List.length_cons, runSteps_succ hstep, runOps_cons (exec_withInput ht rest), ih rfl]

/-- Settles O23: the first three are the words of the operations they stand for, the last is an ill-formed access. -/
theorem pseudoOperationsExpand : Obligations.PseudoOperationsExpand := by
  intro s rest
  have hticks (n : Nat) (hi : s.input = (TraceLine.ticks n).expand ++ rest) :
      runSteps n s = runOps (List.replicate n .tick) { s with input := rest } := by
    have hrun := runSteps_words (ops := List.replicate n .tick) (s := s) (rest := rest) (by simpa [TraceLine.expand] using hi)
    rwa [List.length_replicate] at hrun
  exact ⟨hticks, hticks 256, fun r g b => runSteps_words (ops := [.wrR r, .wrG g, .wrB b]),
    fun hi => (step_bus_refused_iff hi).mpr rfl⟩

end Sys2Proof.Machine

/-! The renderer's tick, the counter and the latch (40_pwm_renderer.md). -/

namespace Sys2Proof.Machine

/-- A line after any tick, by the counter and the latched value that the tick leaves (R51). -/
theorem tick_out_get (b : Block) (c : Channel) : b.tick.out.get c =
    if b.tick.duty = 0#8 ∧ 0#8 < b.tick.l.get c then ON
    else if b.tick.l.get c = b.tick.duty then OFF
    else b.out.get c := by
  by_cases hw : b.duty = 255#8
  · have hzero : inc8 b.duty = 0#8 := (inc8_eq_zero_iff b.duty).mpr hw
    rw [tick_out_wrap hw, tick_l, if_pos hw, tick_duty, hzero]
    by_cases hx : b.x.get c = 0#8
    · simp [hx]
    · have hpos : 0#8 < b.x.get c := by bv_omega
      simp [hpos]
  · have hne : inc8 b.duty ≠ 0#8 := fun e => hw ((inc8_eq_zero_iff b.duty).mp e)
    simp [tick_out_inside hw, tick_l, hw, hne, compareLevel]

/-- Settles O8: each clause is what the tick leaves in one register. -/
theorem tickNextState : Obligations.TickNextState := by
  refine ⟨decode_encode .tick, fun s => ⟨_, exec_tick s, tick_duty _, fun c => ?_, tick_out_get _, tick_x _, tick_ambient _,
    rfl, rfl, rfl, rfl⟩⟩
  simp only [withBlock_block, tick_duty, inc8_eq_zero_iff, tick_l, apply_ite (Rgb.get · c)]

/-! The counter over a run. -/

section AfterTicks

variable {α : Type} (f : Block → α)

@[simp] theorem afterTicks_nil (s : State) : afterTicks f [] s = [] := rfl

theorem afterTicks_tick_cons (is : List Instr) (s : State) :
    afterTicks f (.tick :: is) s = f s.block.tick :: afterTicks f is (s.withBlock s.block.tick) := rfl

theorem afterTicks_cons_of_ne {i : Instr} {s t : State} (hi : i ≠ .tick) (h : exec i s = .next t) (is : List Instr) :
    afterTicks f (i :: is) s = afterTicks f is t := by
  simp [afterTicks, h, hi]

end AfterTicks

/-- One count and then `n` more are `n + 1` counts. -/
theorem inc8_add_ofNat (d : Byte) (n : Nat) : inc8 d + BitVec.ofNat 8 n = d + BitVec.ofNat 8 (n + 1) := by
  rw [inc8, BitVec.ofNat_add]
  ac_rfl

/-- Over a run without `RESET` the counter takes the values that follow its first one, one for each `TICK` (R52). -/
theorem afterTicks_duty {ops : List Instr} (hnr : NoReset ops) (s : State) : afterTicks Block.duty ops s =
    (List.range (tickCount ops)).map fun k => s.block.duty + BitVec.ofNat 8 (k + 1) := by
  induction ops generalizing s with
  | nil => rfl
  | cons i is ih =>
    obtain ⟨hr, hnr'⟩ := noReset_cons.mp hnr
    by_cases hi : i = .tick
    · subst hi
      rw [afterTicks_tick_cons, ih hnr', tickCount_tick_cons, List.range_succ_eq_map]
      refine List.cons_eq_cons.mpr ⟨tick_duty s.block, ?_⟩
      simp [inc8_add_ofNat]
    · obtain ⟨t, ht⟩ := exec_total i s
      rw [afterTicks_cons_of_ne _ hi ht, ih hnr', tickCount_cons_of_ne hi, (exec_keeps_renderer hi hr ht).1]

/-- A run without `RESET` adds the number of its `TICK`s to the counter (R52). -/
theorem runOps_duty {ops : List Instr} {s t : State} (hnr : NoReset ops) (ht : runOps ops s = .next t) :
    t.block.duty = s.block.duty + BitVec.ofNat 8 (tickCount ops) := by
  induction ops generalizing s with
  | nil => cases ht; simp
  | cons i is ih =>
    obtain ⟨hr, hnr'⟩ := noReset_cons.mp hnr
    obtain ⟨u, hu, hrest⟩ := exists_exec_of_runOps_cons ht
    rw [ih hnr' hrest]
    by_cases hi : i = .tick
    · subst hi; cases hu
      rw [withBlock_block, tick_duty, inc8_add_ofNat, tickCount_tick_cons]
    · rw [(exec_keeps_renderer hi hr hu).1, tickCount_cons_of_ne hi]

/-- Any 256 consecutive bytes are all the bytes, each of them once. -/
theorem count_consecutive_bytes (d₀ d : Byte) :
    ((List.range 256).map fun k => d₀ + BitVec.ofNat 8 (k + 1)).count d = 1 := by
  apply List.count_eq_one_of_mem
  · refine List.Nodup.map_on (fun j hj k hk h => ?_) List.nodup_range
    rw [List.mem_range] at hj hk
    bv_omega
  · refine List.mem_map.mpr ⟨(d - d₀ - 1#8).toNat, List.mem_range.mpr (BitVec.isLt _), ?_⟩
    bv_omega

/-- Settles O24: a run without `RESET` counts its `TICK`s from where it begins, and 256 consecutive bytes are all of them. -/
theorem counterTakesEachValueOncePerFrame : Obligations.CounterTakesEachValueOncePerFrame := by
  refine ⟨fun s => ⟨_, exec_tick s, fun h => ?_, fun h => ?_⟩, fun ops s hnr hcount => ?_⟩
  · rw [withBlock_block, tick_duty, inc8_toNat h]
  · rw [withBlock_block, tick_duty, (inc8_eq_zero_iff _).mpr h]
  · obtain ⟨t, ht⟩ := runOps_total ops s
    refine ⟨t, ht, ?_, fun d => ?_⟩
    · simp [runOps_duty hnr ht, hcount]
    · rw [afterTicks_duty hnr, hcount]
      exact count_consecutive_bytes _ d

/-! The latch over a run. -/

/-- What an operation but `RESET` can do to the latched values: nothing, or the wrap tick's snapshot (R54). -/
theorem exec_latched_cases {i : Instr} {s t : State} (hr : i ≠ .reset) (h : exec i s = .next t) :
    t.block.l = s.block.l ∨ (i = .tick ∧ s.block.duty = 255#8 ∧ t.block.l = s.block.x) := by
  by_cases hi : i = .tick
  · subst hi; cases h
    by_cases hw : s.block.duty = 255#8
    · exact .inr ⟨rfl, hw, by rw [withBlock_block, tick_l, if_pos hw]⟩
    · exact .inl (by rw [withBlock_block, tick_l, if_neg hw])
  · exact .inl (exec_keeps_renderer hi hr h).2.1

/-- The latched values at the end of a run without `RESET`: those it began with, or the snapshot of one of its wrap ticks. -/
theorem runOps_latched_cases {ops : List Instr} {s t : State} (hnr : NoReset ops) (ht : runOps ops s = .next t) :
    t.block.l = s.block.l ∨
    ∃ pre post u, ops = pre ++ .tick :: post ∧ runOps pre s = .next u ∧ u.block.duty = 255#8 ∧ u.block.x = t.block.l := by
  induction ops generalizing s with
  | nil => cases ht; exact .inl rfl
  | cons i is ih =>
    obtain ⟨hr, hnr'⟩ := noReset_cons.mp hnr
    obtain ⟨u, hu, hrest⟩ := exists_exec_of_runOps_cons ht
    obtain hkept | ⟨pre, post, v, hsplit, hv, hlater⟩ := ih hnr' hrest
    · obtain hsame | ⟨rfl, hw, hsnap⟩ := exec_latched_cases hr hu
      · exact .inl (hkept.trans hsame)
      · exact .inr ⟨[], is, s, rfl, rfl, hw, (hkept.trans hsnap).symm⟩
    · exact .inr ⟨i :: pre, post, v, by rw [hsplit]; rfl, (runOps_cons hu pre).trans hv, hlater⟩

/-- Settles O25: one `TICK` latches exactly where it wraps, and a run keeps the last snapshot latched in it. -/
theorem latchIsOneSnapshotOnTheWrapTick : Obligations.LatchIsOneSnapshotOnTheWrapTick := by
  refine ⟨fun s => ⟨_, exec_tick s, fun h => ?_, fun h => ?_⟩, fun ops s hnr => ?_⟩
  · rw [withBlock_block, tick_l, if_pos h]
  · rw [withBlock_block, tick_l, if_neg h]
  · obtain ⟨t, ht⟩ := runOps_total ops s
    exact ⟨t, ht, runOps_latched_cases hnr ht⟩

end Sys2Proof.Machine

/-! The light sampler (41_light_sampler.md). -/

namespace Sys2Proof.Machine

theorem exec_sample (v : Byte) (s : State) : exec (.sample v) s = .next (s.withBlock (s.block.setAmbient v)) := rfl

/-- Settles O9: the word is one of those whose payload byte 0 is the operand, and the operation stores it in `AMBIENT` alone. -/
theorem sampleNextState : Obligations.SampleNextState := by
  intro v s
  obtain ⟨-, -, hwords⟩ := operandsArePayloadBytes
  obtain ⟨hsample, -⟩ := hwords v 0#8 0#8 0#8
  exact ⟨hsample, exec_sample v s⟩

end Sys2Proof.Machine

/-! The host's intensity writes (42_host_access.md). -/

namespace Sys2Proof.Machine

theorem exec_wrR (v : Byte) (s : State) : exec (.wrR v) s = .next (s.withBlock (s.block.setX .red v)) := rfl

theorem exec_wrG (v : Byte) (s : State) : exec (.wrG v) s = .next (s.withBlock (s.block.setX .green v)) := rfl

theorem exec_wrB (v : Byte) (s : State) : exec (.wrB v) s = .next (s.withBlock (s.block.setX .blue v)) := rfl

theorem exec_wrRgb (r g b : Byte) (s : State) : exec (.wrRgb r g b) s = .next (s.withBlock (s.block.setAllX ⟨r, g, b⟩)) := rfl

/-! The four writes of the register window, for any data on the write lanes (R24, R25). -/

section BusWrites

variable (w : Word)

theorem decodeAccess_write_red : decodeAccess (.write 0 1 w) = .ok (.wrR (byte0 w)) := rfl

theorem decodeAccess_write_green : decodeAccess (.write 1 1 w) = .ok (.wrG (byte0 w)) := rfl

theorem decodeAccess_write_blue : decodeAccess (.write 2 1 w) = .ok (.wrB (byte0 w)) := rfl

theorem decodeAccess_write_triple : decodeAccess (.write 0 4 w) = .ok (.wrRgb (byte0 w) (byte1 w) (byte2 w)) := rfl

end BusWrites

@[simp] theorem byte0_setWidth (v : Byte) : byte0 (v.setWidth 32) = v := by
  have hv := v.isLt
  apply BitVec.eq_of_toNat_eq
  rw [toNat_byte0, BitVec.toNat_setWidth]
  omega

/-- Settles O10: each word is one of those whose payload byte 0 is the operand, each bus form takes the low data byte, and
each operation is its channel's write. -/
theorem byteWriteNextState : Obligations.ByteWriteNextState := by
  intro v s
  obtain ⟨-, -, hwords⟩ := operandsArePayloadBytes
  obtain ⟨-, hwrR, hwrG, hwrB, -⟩ := hwords v 0#8 0#8 0#8
  refine ⟨⟨hwrR, ?_, exec_wrR v s⟩, ⟨hwrG, ?_, exec_wrG v s⟩, ⟨hwrB, ?_, exec_wrB v s⟩⟩
  · rw [decodeAccess_write_red, byte0_setWidth]
  · rw [decodeAccess_write_green, byte0_setWidth]
  · rw [decodeAccess_write_blue, byte0_setWidth]

/-! Operations that commute may run in any order. -/

/-- The two operations, one right after the other, give the same outcome in both orders from every state. -/
def OpsCommute (i j : Instr) : Prop := ∀ s, runOps [i, j] s = runOps [j, i] s

theorem OpsCommute.symm {i j : Instr} (h : OpsCommute i j) : OpsCommute j i := fun s => (h s).symm

/-- Commuting operations may be exchanged in front of any run. -/
theorem OpsCommute.runOps_swap {i j : Instr} (h : OpsCommute i j) (is : List Instr) (s : State) :
    runOps (i :: j :: is) s = runOps (j :: i :: is) s := by
  obtain ⟨t, ht⟩ := runOps_total [i, j] s
  exact (runOps_append ht (bs := is)).trans (runOps_append ((h s).symm.trans ht)).symm

/-- A run of operations that commute pairwise is the same in any order. -/
theorem runOps_eq_of_perm {as bs : List Instr} (hp : as.Perm bs) (hc : as.Pairwise OpsCommute) (s : State) :
    runOps as s = runOps bs s := by
  induction hp generalizing s with
  | nil => rfl
  | cons i _ ih =>
    obtain ⟨t, ht⟩ := exec_total i s
    rw [runOps_cons ht, runOps_cons ht, ih hc.of_cons]
  | swap i j is => exact OpsCommute.runOps_swap (List.rel_of_pairwise_cons hc List.mem_cons_self) is s
  | trans hp₁ _ ih₁ ih₂ => exact (ih₁ hc s).trans (ih₂ (hp₁.pairwise hc OpsCommute.symm) s)

/-- Byte writes to different registers commute, each leaving the others' registers alone (R33). -/
theorem byteWrites_pairwise_commute (r g b : Byte) : [Instr.wrR r, .wrG g, .wrB b].Pairwise OpsCommute := by
  have hrg : OpsCommute (.wrR r) (.wrG g) := fun _ => rfl
  have hrb : OpsCommute (.wrR r) (.wrB b) := fun _ => rfl
  have hgb : OpsCommute (.wrG g) (.wrB b) := fun _ => rfl
  simp [hrg, hrb, hgb]

/-- The three byte writes, with nothing between them, have the effect of the triple write (R72). -/
theorem runOps_byteWrites (r g b : Byte) (s : State) : runOps [.wrR r, .wrG g, .wrB b] s = exec (.wrRgb r g b) s := rfl

/-- Settles O11: the word and the bus form carry the three bytes in their lanes, and the three byte writes commute. -/
theorem tripleWriteNextState : Obligations.TripleWriteNextState := by
  intro r g b s
  obtain ⟨-, -, hwords⟩ := operandsArePayloadBytes
  obtain ⟨-, -, -, -, hwrRgb⟩ := hwords 0#8 r g b
  refine ⟨hwrRgb, fun w hr hg hb => ?_, exec_wrRgb r g b s, fun ops hp => ?_⟩
  · subst hr hg hb
    exact decodeAccess_write_triple w
  · have hc : ops.Pairwise OpsCommute := hp.symm.pairwise (byteWrites_pairwise_commute r g b) OpsCommute.symm
    rw [runOps_eq_of_perm hp hc, runOps_byteWrites]

end Sys2Proof.Machine

/-! What decoding and encoding have to do with each other (30_encoding.md section 4). -/

namespace Sys2Proof.Machine

/-- Settles O2: each operation's own word decodes to it, and no other word does. -/
theorem decodeAndEncodeAreInverse : Obligations.DecodeAndEncodeAreInverse :=
  ⟨decode_encode, fun _ _ h => (decode_eq_ok_iff.mp h).symm⟩

end Sys2Proof.Machine

/-! The output invariant (10_state.md section 10): every operation keeps it, and a wrap tick and a `RESET` establish it. -/

namespace Sys2Proof.Machine

/-- After a wrap tick the invariant holds, whatever the lines were. -/
theorem outputInvariant_tick_of_wrap {b : Block} (hw : b.duty = 255#8) : OutputInvariant b.tick := by
  intro c
  rw [tick_out_wrap hw, tick_duty, (inc8_eq_zero_iff _).mpr hw, tick_l, if_pos hw, decide_eq_true_iff]

/-- A line that is ON exactly below its latched value is still so after the counter goes up by one and the compare. -/
theorem compareLevel_inc8_iff {d v : Byte} {o : Level} (hd : d ≠ 255#8) (h : o = ON ↔ d < v) :
    compareLevel (inc8 d) v o = ON ↔ inc8 d < v := by
  have hinc := inc8_toNat hd
  simp only [compareLevel, BitVec.lt_def, ← BitVec.toNat_inj, hinc] at h ⊢
  split
  · simp; omega
  · rw [h]; omega

theorem OutputInvariant.tick {b : Block} (h : OutputInvariant b) : OutputInvariant b.tick := by
  by_cases hw : b.duty = 255#8
  · exact outputInvariant_tick_of_wrap hw
  · intro c
    rw [tick_out_inside hw, tick_duty, tick_l, if_neg hw]
    exact compareLevel_inc8_iff hw (h c)

theorem outputInvariant_afterReset (d a : Byte) : OutputInvariant (Block.afterReset d a) := by
  intro c
  simp

theorem OutputInvariant.exec {i : Instr} {s t : State} (h : OutputInvariant s.block) (ht : exec i s = .next t) :
    OutputInvariant t.block := by
  by_cases hi : i = .tick
  · subst hi; cases ht
    exact h.tick
  by_cases hr : i = .reset
  · subst hr; cases ht
    exact outputInvariant_afterReset _ _
  · obtain ⟨hd, hl, ho⟩ := exec_keeps_renderer hi hr ht
    intro c
    rw [hd, hl, ho]
    exact h c

theorem OutputInvariant.runOps {ops : List Instr} {s t : State} (h : OutputInvariant s.block) (ht : runOps ops s = .next t) :
    OutputInvariant t.block := by
  induction ops generalizing s with
  | nil => cases ht; exact h
  | cons i is ih =>
    obtain ⟨u, hu, hrest⟩ := exists_exec_of_runOps_cons ht
    exact ih (h.exec hu) hrest

/-- Taking an event changes no register. -/
theorem fetch_block (s : State) : s.fetch.2.block = s.block := by
  match hi : s.input with
  | [] => rw [fetch_nil hi]
  | .word e :: rest => rw [fetch_word hi]
  | .bus a :: rest => rw [fetch_bus hi]
  | .pins p :: rest =>
    rw [fetch_pins hi]
    unfold State.takePulse
    split <;> rfl

/-- A step that gives a next state does nothing to the registers, or performs one operation on them. -/
theorem step_next_cases {s t : State} (h : step s = .next t) :
    t.block = s.block ∨ ∃ i u, u.block = s.block ∧ exec i u = .next t := by
  have hb := fetch_block s
  match hf : s.fetch with
  | (none, u) =>
    cases (step_of_fetch_none hf).symm.trans h
    exact .inl (by rwa [hf] at hb)
  | (some (.ok i), u) => exact .inr ⟨i, u, by rwa [hf] at hb, (step_of_fetch_ok hf).symm.trans h⟩
  | (some (.error r), u) => cases (step_of_fetch_error hf).symm.trans h

/-- Settles O32: a step changes the registers by one operation at most, and every operation keeps the invariant. -/
theorem stepKeepsTheOutputInvariant : Obligations.StepKeepsTheOutputInvariant := by
  intro s t hinv h
  obtain hsame | ⟨i, u, hu, hexec⟩ := step_next_cases h
  · rwa [hsame]
  · exact OutputInvariant.exec (hu ▸ hinv) hexec

/-- Settles O31: right after reset the lines are OFF and the latched values 0, which no counter is below. -/
theorem outputInvariantAtReset : Obligations.OutputInvariantAtReset :=
  ⟨reset_block ▸ outputInvariant_afterReset _ _, outputInvariant_afterReset⟩

end Sys2Proof.Machine

/-! How many words, and which words, accesses and lines of text, spell an operation (30_encoding.md sections 4 and 6). -/

namespace Sys2Proof.Machine

/-- Settles O1: each of the nine words is its operation's own. -/
theorem tableWordsDecode : Obligations.TableWordsDecode :=
  ⟨decode_encode .tick, decode_encode (.sample 0x90#8), decode_encode (.wrR 252#8), decode_encode (.wrG 0#8),
    decode_encode (.wrB 255#8), decode_encode (.wrRgb 10#8 20#8 30#8), decode_encode (.wrRgb 255#8 255#8 255#8),
    decode_encode .rdAmb, decode_encode .reset⟩

/-- An operation by its row of the opcode map and its operands (R40): the words of each row are counted one row at a time. -/
def rowsEquiv : Instr ≃ Unit ⊕ Byte ⊕ Byte ⊕ Byte ⊕ Byte ⊕ (Byte × Byte × Byte) ⊕ Unit ⊕ Unit where
  toFun
    | .tick        => .inl ()
    | .sample v    => .inr (.inl v)
    | .wrR v       => .inr (.inr (.inl v))
    | .wrG v       => .inr (.inr (.inr (.inl v)))
    | .wrB v       => .inr (.inr (.inr (.inr (.inl v))))
    | .wrRgb r g b => .inr (.inr (.inr (.inr (.inr (.inl (r, g, b))))))
    | .rdAmb       => .inr (.inr (.inr (.inr (.inr (.inr (.inl ()))))))
    | .reset       => .inr (.inr (.inr (.inr (.inr (.inr (.inr ()))))))
  invFun
    | .inl ()                                                => .tick
    | .inr (.inl v)                                          => .sample v
    | .inr (.inr (.inl v))                                   => .wrR v
    | .inr (.inr (.inr (.inl v)))                            => .wrG v
    | .inr (.inr (.inr (.inr (.inl v))))                     => .wrB v
    | .inr (.inr (.inr (.inr (.inr (.inl (r, g, b))))))      => .wrRgb r g b
    | .inr (.inr (.inr (.inr (.inr (.inr (.inl ()))))))      => .rdAmb
    | .inr (.inr (.inr (.inr (.inr (.inr (.inr ()))))))      => .reset
  left_inv i := by cases i <;> rfl
  right_inv := by rintro (_ | _ | _ | _ | _ | _ | _ | _) <;> rfl

/-- Every word that spells an operation is the word of exactly one (R45). -/
theorem encode_bijective :
    Function.Bijective fun i => (⟨encode i, i, decode_encode i⟩ : { e : Word // ∃ i, decode e = .ok i }) := by
  constructor
  · intro i j h
    have hw : encode i = encode j := congrArg Subtype.val h
    exact Except.ok.inj ((decode_encode i).symm.trans (hw ▸ decode_encode j))
  · rintro ⟨e, i, h⟩
    exact ⟨i, Subtype.ext (decode_eq_ok_iff.mp h).symm⟩

theorem card_byte : Fintype.card Byte = 256 :=
  (Fintype.card_congr BitVec.equivFin.toEquiv).trans (Fintype.card_fin _)

/-- Settles O3: the rows of the opcode map have 1, four times 256, 256³, 1 and 1 operations. -/
theorem legalWordsAreCounted : Obligations.LegalWordsAreCounted := by
  rw [Obligations.LegalWordsAreCounted, ← Nat.card_eq_of_bijective _ encode_bijective, Nat.card_congr rowsEquiv]
  simp [card_byte]

theorem wordWellFormed_iff (e : Word) : wordWellFormed e = true ↔ ∃ i, decode e = .ok i := by
  cases decode_verdict e with
  | reserved hrsv hd => simp [wordWellFormed, hrsv, hd]
  | unknownOp hrsv hop hd => simp [wordWellFormed, hop, hd]
  | unusedPayload f hrsv hop hpay hd => simp [wordWellFormed, hop, hpay, hd]
  | accepted i he =>
    obtain ⟨hop, hrsv, hpay⟩ := encode_row i
    simp [wordWellFormed, he, decode_encode, hop, hrsv, hpay, formatOfOp_row]

theorem busAccess_wellFormed_iff (a : BusAccess) : a.wellFormed = true ↔ ∃ i, decodeAccess a = .ok i := by
  match hd : decodeAccess a with
  | .ok i =>
    have hne : a.wellFormed ≠ false := fun h => by cases hd.symm.trans (decodeAccess_eq_error_iff.mpr ⟨rfl, h⟩)
    simpa using hne
  | .error r => simp [(decodeAccess_eq_error_iff.mp hd).2]

/-! Lines of trace text (R47): a mnemonic, its number of operands, and operands that are bytes. -/

section Operands

variable {ns : List Nat}

theorem exists_withNone_iff {l : TraceLine} : (∃ t, withNone ns l = some t) ↔ ns.length = 0 := by
  cases ns <;> simp [withNone]

theorem exists_withOne_iff {f : Byte → TraceLine} :
    (∃ t, withOne ns f = some t) ↔ ns.length = 1 ∧ ∀ v ∈ ns, v < 256 := by
  match ns with
  | [] => simp [withOne]
  | [v] => simp [withOne, byteOf]
  | _ :: _ :: _ => simp [withOne]

theorem exists_withThree_iff {f : Byte → Byte → Byte → TraceLine} :
    (∃ t, withThree ns f = some t) ↔ ns.length = 3 ∧ ∀ v ∈ ns, v < 256 := by
  match ns with
  | [] => simp [withThree]
  | [_] => simp [withThree]
  | [_, _] => simp [withThree]
  | [r, g, b] =>
    by_cases hr : r < 256
    · by_cases hg : g < 256
      · by_cases hb : b < 256 <;> simp [withThree, byteOf, hr, hg, hb]
      · simp [withThree, byteOf, hg]
    · simp [withThree, byteOf, hr]
  | _ :: _ :: _ :: _ :: _ => simp [withThree]

end Operands

/-- The check of a line that states no value, where the operands are bytes. -/
theorem wellFormed_unstated_iff {m : List Char} {ns : List Nat} {k : Nat} (hc : operandCount m = some k)
    (hm : m ≠ "TICKS".toList) : RawLine.wellFormed ⟨m, ns, none⟩ = true ↔ ns.length = k ∧ ∀ v ∈ ns, v < 256 := by
  simp only [RawLine.wellFormed, hc, Bool.and_true, Bool.and_eq_true, Bool.or_eq_true, beq_iff_eq, Option.some.injEq, hm,
    false_or, List.all_eq_true, decide_eq_true_eq]
  rw [eq_comm]

/-- The check of a line of text passes exactly if the line is looked up to a trace line. -/
def CheckedAsLookedUp (l : RawLine) : Prop := l.wellFormed = true ↔ ∃ t, lookUpLine l = some t

section Unstated

variable {m : List Char} {ns : List Nat}

theorem CheckedAsLookedUp.of_none {t : TraceLine} (hc : operandCount m = some 0) (hm : m ≠ "TICKS".toList)
    (hl : lookUpLine ⟨m, ns, none⟩ = withNone ns t) : CheckedAsLookedUp ⟨m, ns, none⟩ := by
  rw [CheckedAsLookedUp, wellFormed_unstated_iff hc hm, hl, exists_withNone_iff]
  refine ⟨And.left, fun h => ⟨h, ?_⟩⟩
  simp [List.eq_nil_of_length_eq_zero h]

theorem CheckedAsLookedUp.of_one {f : Byte → TraceLine} (hc : operandCount m = some 1) (hm : m ≠ "TICKS".toList)
    (hl : lookUpLine ⟨m, ns, none⟩ = withOne ns f) : CheckedAsLookedUp ⟨m, ns, none⟩ := by
  rw [CheckedAsLookedUp, wellFormed_unstated_iff hc hm, hl, exists_withOne_iff]

theorem CheckedAsLookedUp.of_three {f : Byte → Byte → Byte → TraceLine} (hc : operandCount m = some 3)
    (hm : m ≠ "TICKS".toList) (hl : lookUpLine ⟨m, ns, none⟩ = withThree ns f) : CheckedAsLookedUp ⟨m, ns, none⟩ := by
  rw [CheckedAsLookedUp, wellFormed_unstated_iff hc hm, hl, exists_withThree_iff]

/-- `TICKS` alone takes a count without a bound (log 14). -/
theorem CheckedAsLookedUp.ticks : CheckedAsLookedUp ⟨"TICKS".toList, ns, none⟩ := by
  match ns with
  | [] => simp [CheckedAsLookedUp, RawLine.wellFormed, operandCount, lookUpLine]
  | [n] => simp [CheckedAsLookedUp, RawLine.wellFormed, operandCount, lookUpLine]
  | _ :: _ :: _ => simp [CheckedAsLookedUp, RawLine.wellFormed, operandCount, lookUpLine]

/-- Only `RD_AMB` states a returned value. -/
theorem CheckedAsLookedUp.stated {v : Nat} : CheckedAsLookedUp ⟨m, ns, some v⟩ := by
  by_cases hm : m = "RD_AMB".toList
  · subst hm
    have hl : lookUpLine ⟨"RD_AMB".toList, ns, some v⟩ = withOne (v :: ns) .readIs := rfl
    rw [CheckedAsLookedUp, hl, exists_withOne_iff]
    cases ns with
    | nil => simp [RawLine.wellFormed, operandCount]
    | cons _ _ => simp [RawLine.wellFormed, operandCount]
  · simp only [CheckedAsLookedUp, RawLine.wellFormed, lookUpLine, if_neg hm, beq_eq_false_iff_ne.mpr hm]
    simp

/-- One mnemonic after the other (R47, R48); with any other mnemonic the line is neither. -/
theorem CheckedAsLookedUp.unstated : CheckedAsLookedUp ⟨m, ns, none⟩ := by
  obtain rfl | h1 := eq_or_ne m "TICK".toList
  · exact .of_none (t := .op .tick) rfl (by decide) rfl
  obtain rfl | h2 := eq_or_ne m "SAMPLE".toList
  · exact .of_one (f := fun v => .op (.sample v)) rfl (by decide) rfl
  obtain rfl | h3 := eq_or_ne m "WR_R".toList
  · exact .of_one (f := fun v => .op (.wrR v)) rfl (by decide) rfl
  obtain rfl | h4 := eq_or_ne m "WR_G".toList
  · exact .of_one (f := fun v => .op (.wrG v)) rfl (by decide) rfl
  obtain rfl | h5 := eq_or_ne m "WR_B".toList
  · exact .of_one (f := fun v => .op (.wrB v)) rfl (by decide) rfl
  obtain rfl | h6 := eq_or_ne m "WR_RGB".toList
  · exact .of_three (f := fun r g b => .op (.wrRgb r g b)) rfl (by decide) rfl
  obtain rfl | h7 := eq_or_ne m "RD_AMB".toList
  · exact .of_none (t := .op .rdAmb) rfl (by decide) rfl
  obtain rfl | h8 := eq_or_ne m "RESET".toList
  · exact .of_none (t := .op .reset) rfl (by decide) rfl
  obtain rfl | h9 := eq_or_ne m "TICKS".toList
  · exact .ticks
  obtain rfl | h10 := eq_or_ne m "FRAME".toList
  · exact .of_none (t := .frame) rfl (by decide) rfl
  obtain rfl | h11 := eq_or_ne m "SET_RGB".toList
  · exact .of_three (f := .setRgb) rfl (by decide) rfl
  obtain rfl | h12 := eq_or_ne m "BAD_ACCESS".toList
  · exact .of_none (t := .badAccess) rfl (by decide) rfl
  have hcount : operandCount m = none := by
    simp only [operandCount, if_neg h1, if_neg h2, if_neg h3, if_neg h4, if_neg h5, if_neg h6, if_neg h7,
      if_neg h8, if_neg h9, if_neg h10, if_neg h11, if_neg h12]
  have hlook : lookUpLine ⟨m, ns, none⟩ = none := by
    simp only [lookUpLine, ne_eq, not_true_eq_false, if_false, if_neg h1, if_neg h2, if_neg h3, if_neg h4, if_neg h5,
      if_neg h6, if_neg h7, if_neg h8, if_neg h9, if_neg h10, if_neg h11, if_neg h12]
  simp [CheckedAsLookedUp, RawLine.wellFormed, hcount, hlook]

end Unstated

/-- Settles O7: each check passes exactly what its decoder gives a meaning. -/
theorem wellFormedTermsAreThoseWithAMeaning : Obligations.WellFormedTermsAreThoseWithAMeaning := by
  refine ⟨wordWellFormed_iff, busAccess_wellFormed_iff, fun l => ?_⟩
  match l with
  | ⟨_, _, some _⟩ => exact CheckedAsLookedUp.stated
  | ⟨_, _, none⟩ => exact CheckedAsLookedUp.unstated

end Sys2Proof.Machine

/-! Steps: what each kind of event does (20_memory.md sections 3 and 5). -/

namespace Sys2Proof.Machine

theorem exec_rdAmb (s : State) : exec .rdAmb s = .next (s.returnByte s.block.ambient) := rfl

/-- Settles O15: each operation completes, and so do they one after the other. -/
theorem everyRunCompletes : Obligations.EveryRunCompletes := ⟨exec_total, runOps_total⟩

theorem step_word {s : State} {e : Word} {rest : List Input} {i : Instr} (hi : s.input = .word e :: rest)
    (hd : decode e = .ok i) : step s = exec i { s with input := rest } :=
  step_of_fetch_ok (hd ▸ fetch_word hi)

theorem step_bus {s : State} {a : BusAccess} {rest : List Input} {i : Instr} (hi : s.input = .bus a :: rest)
    (hd : decodeAccess a = .ok i) : step s = exec i { s with input := rest } :=
  step_of_fetch_ok (hd ▸ fetch_bus hi)

/-- Settles O17: the fetch of each kind of event, performed. -/
theorem stepPerformsTheNextEvent : Obligations.StepPerformsTheNextEvent :=
  ⟨fun _ _ _ _ => step_word, fun _ _ _ _ => step_bus, fun _ h => step_of_fetch_none (fetch_nil h)⟩

/-- Settles O22: as many steps as there are words perform their operations. -/
theorem wordsRunAsTheirOperations : Obligations.WordsRunAsTheirOperations :=
  fun _ _ _ hi => runSteps_words hi

/-- The five accesses that have a meaning (R24 to R26). -/
theorem busAccess_wellFormed_cases {a : BusAccess} (h : a.wellFormed = true) :
    (∃ w, a = .write 0 1 w) ∨ (∃ w, a = .write 1 1 w) ∨ (∃ w, a = .write 2 1 w) ∨ (∃ w, a = .write 0 4 w) ∨
      a = .read 3 1 := by
  cases a with
  | write offset size w =>
    simp only [BusAccess.wellFormed, Bool.or_eq_true, Bool.and_eq_true, beq_iff_eq, decide_eq_true_eq] at h
    obtain ⟨rfl, hlt⟩ | ⟨rfl, rfl⟩ := h
    · obtain rfl | rfl | rfl : offset = 0 ∨ offset = 1 ∨ offset = 2 := by omega
      · exact .inl ⟨w, rfl⟩
      · exact .inr (.inl ⟨w, rfl⟩)
      · exact .inr (.inr (.inl ⟨w, rfl⟩))
    · exact .inr (.inr (.inr (.inl ⟨w, rfl⟩)))
  | read offset size =>
    simp only [BusAccess.wellFormed, Bool.and_eq_true, beq_iff_eq] at h
    obtain ⟨rfl, rfl⟩ := h
    exact .inr (.inr (.inr (.inr rfl)))

/-- Settles O18: each of the five accesses is its operation, and an access that is none of them is ill-formed. -/
theorem hostWindowAccesses : Obligations.HostWindowAccesses := by
  intro s rest
  refine ⟨fun w hi => ?_, fun w hi => ?_, fun w hi => ?_, fun w hi => ?_, fun hi => ?_, fun a hR hG hB hRgb hRd hi => ?_⟩
  · exact (step_bus hi (decodeAccess_write_red w)).trans (exec_wrR _ _)
  · exact (step_bus hi (decodeAccess_write_green w)).trans (exec_wrG _ _)
  · exact (step_bus hi (decodeAccess_write_blue w)).trans (exec_wrB _ _)
  · exact (step_bus hi (decodeAccess_write_triple w)).trans (exec_wrRgb _ _ _ _)
  · exact (step_bus hi rfl).trans (exec_rdAmb _)
  · refine (step_bus_refused_iff hi).mpr (Bool.eq_false_iff.mpr fun hwf => ?_)
    obtain ⟨w, h⟩ | ⟨w, h⟩ | ⟨w, h⟩ | ⟨w, h⟩ | h := busAccess_wellFormed_cases hwf
    · exact hR w h
    · exact hG w h
    · exact hB w h
    · exact hRgb w h
    · exact hRd h

/-! Several pulses at one instant (R30, R86). -/

/-- No operation looks at the number of order choices, or changes it. -/
theorem exec_withTies {i : Instr} {s t : State} (h : exec i s = .next t) (n : Nat) :
    exec i { s with ties := n } = .next { t with ties := n } := by
  cases i <;> (cases h; rfl)

/-- Taking a pulse off an instant leaves every pulse's operation as it was. -/
theorem operation_without (p : Pins) (q : Pulse) : (p.without q).operation = p.operation := by
  funext k
  cases q <;> cases k <;> rfl

/-- A pulse taken off an instant is gone from it once, and the others stay. -/
theorem pulses_perm_without {p : Pins} {q : Pulse} (h : q ∈ p.pulses) : p.pulses.Perm (q :: (p.without q).pulses) := by
  cases q with
  | rst =>
    have hp : p.rst = true := by simpa [Pins.pulses] using h
    simp only [Pins.pulses, Pins.without, hp, reduceIte, Bool.false_eq_true, List.nil_append]
    exact .refl _
  | tick =>
    have hp : p.tick = true := by simpa [Pins.pulses] using h
    simp only [Pins.pulses, Pins.without, hp, reduceIte, Bool.false_eq_true, List.append_nil]
    exact ((List.perm_append_singleton _ _).append_right _).append_right _
  | adcDone =>
    have hp : p.adcDone = true := by simpa [Pins.pulses] using h
    simp only [Pins.pulses, Pins.without, hp, reduceIte, Bool.false_eq_true, List.append_nil]
    exact (List.perm_append_singleton _ _).append_right _
  | hReq =>
    have hp : p.hReq = true := by simpa [Pins.pulses] using h
    simp only [Pins.pulses, Pins.without, hp, reduceIte, Bool.false_eq_true, List.append_nil]
    exact List.perm_append_singleton _ _

/-- A step at an instant with several pulses performs one of them; the others wait at the head of the input. -/
theorem step_many_pulses {s : State} {p : Pins} {rest : List Input} (hi : s.input = .pins p :: rest)
    (hmany : 2 ≤ p.pulses.length) (hok : ∀ q ∈ p.pulses, ∃ i, p.operation q = .ok i) :
    ∃ q ∈ p.pulses, ∃ i, p.operation q = .ok i ∧
      step s = exec i { s with input := .pins (p.without q) :: rest, ties := s.ties + 1 } := by
  obtain ⟨q, hq, htake⟩ := takePulse_many (s := s) (rest := rest) hmany
  obtain ⟨i, hop⟩ := hok q hq
  exact ⟨q, hq, i, hop, step_of_fetch_ok (by rw [fetch_pins hi, htake, hop])⟩

theorem runSteps_pulses {n : Nat} {s : State} {p : Pins} {rest : List Input} (hi : s.input = .pins p :: rest)
    (hlen : p.pulses.length = n + 1) (hok : ∀ q ∈ p.pulses, ∃ i, p.operation q = .ok i) :
    ∃ ops : List Instr, (ops.map Except.ok).Perm (p.pulses.map p.operation) ∧
      runSteps (n + 1) s = runOps ops { s with input := rest, ties := s.ties + n } := by
  induction n generalizing s p with
  | zero =>
    obtain ⟨q, hq⟩ := List.length_eq_one_iff.mp hlen
    obtain ⟨i, hop⟩ := hok q (by simp [hq])
    obtain ⟨t, ht⟩ := exec_total i { s with input := rest }
    have hstep := (step_one_pulse hi hq hop).trans ht
    exact ⟨[i], by simp [hq, hop], (runSteps_succ hstep 0).trans (runOps_cons ht []).symm⟩
  | succ n ih =>
    obtain ⟨q, hq, i, hop, hstep⟩ := step_many_pulses hi (by omega) hok
    have hperm := pulses_perm_without hq
    obtain ⟨t, ht⟩ := exec_total i s
    have hnext (wait : List Input) (k : Nat) :
        exec i { s with input := wait, ties := k } = .next { t with input := wait, ties := k } :=
      exec_withTies (exec_withInput ht wait) k
    have hlen' : (p.without q).pulses.length = n + 1 := by simpa [hlen] using hperm.length_eq.symm
    have hok' (k) (hk : k ∈ (p.without q).pulses) : ∃ j, (p.without q).operation k = .ok j := by
      rw [operation_without]
      exact hok k (hperm.mem_iff.mpr (List.mem_cons_of_mem q hk))
    obtain ⟨ops, hops, hrun⟩ := ih (s := { t with input := .pins (p.without q) :: rest, ties := s.ties + 1 }) rfl hlen' hok'
    refine ⟨i :: ops, ?_, ?_⟩
    · refine List.Perm.trans ?_ (hperm.map p.operation).symm
      rw [List.map_cons, List.map_cons, hop]
      exact .cons _ (operation_without p q ▸ hops)
    · rw [runSteps_succ (hstep.trans (hnext _ _)), hrun, runOps_cons (hnext rest _), Nat.add_assoc, Nat.add_comm 1]

/-- Settles O21: one step for each pulse, each taking one of those that are left. -/
theorem simultaneousPulsesArePerformedOnceEach : Obligations.SimultaneousPulsesArePerformedOnceEach := by
  intro s p rest hi hne hok
  obtain ⟨n, hn⟩ := Nat.exists_eq_add_one_of_ne_zero (mt List.length_eq_zero_iff.mp hne)
  rw [hn]
  exact runSteps_pulses hi hn hok

end Sys2Proof.Machine

/-! What each operation leaves in the reading and in the model's own fields (10_state.md sections 1 and 6). -/

namespace Sys2Proof.Machine

/-- The state after a `RESET` (R93). -/
def State.afterReset (s : State) : State :=
  { s with block := Block.afterReset Config.dutyReset (Config.ambientReset s.draws), draws := s.draws + 1 }

theorem exec_reset (s : State) : exec .reset s = .next s.afterReset := rfl

@[simp] theorem state_afterReset_block (s : State) :
    s.afterReset.block = Block.afterReset Config.dutyReset (Config.ambientReset s.draws) := rfl

@[simp] theorem state_afterReset_record (s : State) : s.afterReset.record = s.record := rfl

@[simp] theorem state_afterReset_draws (s : State) : s.afterReset.draws = s.draws + 1 := rfl

/-- Settles O12: the read puts the reading in the record, twice the same where it is done twice. -/
theorem readNextState : Obligations.ReadNextState :=
  ⟨decode_encode .rdAmb, rfl, fun s => ⟨exec_rdAmb s, runOps_cons (exec_rdAmb s) [.rdAmb]⟩⟩

/-- Settles O13: what a `RESET` leaves depends on the state it finds in the number of the draw alone. -/
theorem resetNextState : Obligations.ResetNextState :=
  ⟨decode_encode .reset, fun s =>
    ⟨exec_reset s, s.afterReset, s.afterReset.afterReset, exec_reset s, runOps_cons (exec_reset s) [.reset], rfl⟩⟩

/-- Settles O14: the reset state's registers are those that a `RESET` leaves, up to the draw. -/
theorem registersAfterReset : Obligations.RegistersAfterReset :=
  ⟨rfl, rfl, rfl, rfl, rfl, fun s => ⟨s.afterReset, exec_reset s, rfl⟩,
    fun v => ⟨_, _, exec_tick _, exec_sample v _⟩⟩

/-- An intensity write gives the three intensity registers new values, from their old ones, and does nothing else. -/
theorem exec_of_isWrite {i : Instr} (hw : isWrite i = true) :
    ∃ f : Rgb Byte → Rgb Byte, ∀ s, exec i s = .next (s.withBlock (s.block.setAllX (f s.block.x))) := by
  cases i with
  | wrR v => exact ⟨fun x => x.set .red v, exec_wrR v⟩
  | wrG v => exact ⟨fun x => x.set .green v, exec_wrG v⟩
  | wrB v => exact ⟨fun x => x.set .blue v, exec_wrB v⟩
  | wrRgb r g b => exact ⟨fun _ => ⟨r, g, b⟩, exec_wrRgb r g b⟩
  | tick | sample _ | rdAmb | reset => cases hw

section ExecFields

variable {i : Instr} {s t : State}

/-- After any operation but `RESET` the reading is the one it stores, or the old one if it stores none. -/
theorem exec_ambient (hr : i ≠ .reset) (h : exec i s = .next t) : t.block.ambient = (reading i).getD s.block.ambient := by
  cases i with
  | tick => cases h; exact tick_ambient s.block
  | reset => exact absurd rfl hr
  | sample v => cases h; rfl
  | wrR v => cases h; rfl
  | wrG v => cases h; rfl
  | wrB v => cases h; rfl
  | wrRgb r g b => cases h; rfl
  | rdAmb => cases h; rfl

theorem exec_record (hi : i ≠ .rdAmb) (h : exec i s = .next t) : t.record = s.record := by
  cases i with
  | rdAmb => exact absurd rfl hi
  | _ => cases h; rfl

theorem exec_draws (hr : i ≠ .reset) (h : exec i s = .next t) : t.draws = s.draws := by
  cases i with
  | reset => exact absurd rfl hr
  | _ => cases h; rfl

theorem exec_input (h : exec i s = .next t) : t.input = s.input := by
  cases i <;> (cases h; rfl)

theorem exec_ties (h : exec i s = .next t) : t.ties = s.ties := by
  cases i <;> (cases h; rfl)

theorem eq_tick_of_agent (ha : i.agent = .timer) : i = .tick := by
  cases i with
  | tick => rfl
  | _ => cases ha

theorem exec_converter (ha : i.agent = .converter) (h : exec i s = .next t) :
    t.block = { s.block with ambient := t.block.ambient } := by
  cases i with
  | sample v => cases h; rfl
  | _ => cases ha

theorem exec_host (ha : i.agent = .host) (h : exec i s = .next t) : t.block = { s.block with x := t.block.x } := by
  cases i with
  | tick | sample _ | reset => cases ha
  | _ => cases h; rfl

end ExecFields

/-- Settles O16: one frame for each agent's registers, and one for each field. -/
theorem operationsTouchOnlyTheirOwnRegisters : Obligations.OperationsTouchOnlyTheirOwnRegisters := by
  intro i s
  obtain ⟨t, ht⟩ := exec_total i s
  refine ⟨t, ht, fun ha => ?_, fun ha => exec_converter ha ht, fun ha => exec_host ha ht, fun c hr hw => ?_,
    fun hi => exec_record hi ht, fun hr => exec_draws hr ht, exec_input ht, exec_ties ht⟩
  · obtain rfl := eq_tick_of_agent ha
    cases ht
    exact ⟨tick_x s.block, tick_ambient s.block⟩
  · rw [exec_x_get hr ht, hw, Option.getD_none]

/-! Runs: what they keep, and the last value given to a register in them. -/

/-- What no operation of a run changes is at its end what it was. -/
theorem runOps_keeps {α : Type} (f : State → α) {p : Instr → Prop}
    (hexec : ∀ {i : Instr} {s t : State}, p i → exec i s = .next t → f t = f s) {ops : List Instr} {s t : State}
    (hp : ∀ i ∈ ops, p i) (ht : runOps ops s = .next t) : f t = f s := by
  induction ops generalizing s with
  | nil => cases ht; rfl
  | cons i is ih =>
    obtain ⟨u, hu, hrest⟩ := exists_exec_of_runOps_cons ht
    rw [List.forall_mem_cons] at hp
    exact (ih hp.2 hrest).trans (hexec hp.1 hu)

/-- A register that every operation but `RESET` either gives a value or keeps holds, after a run without `RESET`, the last
value it was given. -/
theorem runOps_last {α : Type} (given : Instr → Option α) (f : State → α)
    (hexec : ∀ {i : Instr} {s t : State}, i ≠ .reset → exec i s = .next t → f t = (given i).getD (f s))
    {ops : List Instr} {s t : State} (hnr : NoReset ops) (ht : runOps ops s = .next t) :
    f t = (ops.filterMap given).getLast?.getD (f s) := by
  induction ops generalizing s with
  | nil => cases ht; rfl
  | cons i is ih =>
    obtain ⟨u, hu, hrest⟩ := exists_exec_of_runOps_cons ht
    obtain ⟨hr, hnr'⟩ := noReset_cons.mp hnr
    rw [ih hnr' hrest, hexec hr hu]
    cases hg : given i with
    | none => rw [List.filterMap_cons_none hg, Option.getD_none]
    | some v => rw [List.filterMap_cons_some hg, List.getLast?_cons, Option.getD_some, Option.getD_some]

section RunFields

variable {ops : List Instr} {s t : State}

/-- The reading after a run without `RESET` (R31, R64). -/
theorem runOps_ambient (hnr : NoReset ops) (ht : runOps ops s = .next t) :
    t.block.ambient = (lastReading ops).getD s.block.ambient :=
  runOps_last reading (·.block.ambient) exec_ambient hnr ht

/-- The intensity of a channel after a run without `RESET` (R31). -/
theorem runOps_x_get (hnr : NoReset ops) (ht : runOps ops s = .next t) (c : Channel) :
    t.block.x.get c = (lastWritten c ops).getD (s.block.x.get c) :=
  runOps_last (written c) (·.block.x.get c) (fun hr h => exec_x_get hr h c) hnr ht

theorem runOps_record (hops : .rdAmb ∉ ops) (ht : runOps ops s = .next t) : t.record = s.record :=
  runOps_keeps State.record exec_record (fun _ hi e => hops (e ▸ hi)) ht

theorem runOps_draws (ht : runOps ops s = .next t) : t.draws = s.draws + ops.count .reset := by
  induction ops generalizing s with
  | nil => cases ht; rfl
  | cons i is ih =>
    obtain ⟨u, hu, hrest⟩ := exists_exec_of_runOps_cons ht
    rw [ih hrest]
    by_cases hr : i = .reset
    · subst hr; cases hu
      rw [List.count_cons_self, Nat.add_assoc, Nat.add_comm 1]
    · rw [exec_draws hr hu, List.count_cons_of_ne hr]

end RunFields

/-- Settles O19: the read keeps the registers and the operations after it keep the reading; a write gives its own channels
their values and keeps the rest, and nothing is changed where they hold these values. -/
theorem accessesHaveNoSideEffect : Obligations.AccessesHaveNoSideEffect := by
  intro s
  refine ⟨⟨_, exec_rdAmb s, rfl, fun ops hnr hops => ?_⟩, rfl, rfl, rfl, rfl, fun i hw => ?_⟩
  · obtain ⟨u, hu⟩ := runOps_total ops (s.returnByte s.block.ambient)
    have hnone : lastReading ops = none := by
      rw [lastReading, List.filterMap_eq_nil_iff.mpr hops, List.getLast?_nil]
    refine ⟨u, _, hu, exec_rdAmb u, ?_⟩
    rw [returnByte_hRdata, runOps_ambient hnr hu, hnone, Option.getD_none, returnByte_block, returnByte_hRdata]
  · obtain ⟨f, hf⟩ := exec_of_isWrite hw
    have hr : i ≠ .reset := by rintro rfl; cases hw
    refine ⟨_, hf s, fun c hc => ?_, fun c v hc => ?_, rfl, rfl, rfl, rfl, rfl⟩
    · rw [exec_x_get hr (hf s), hc, Option.getD_none]
    · rw [exec_x_get hr (hf s), hc, Option.getD_some]

/-- A run with a `RESET` in it, cut at the `RESET`. -/
theorem exists_runOps_reset (pre post : List Instr) (s : State) : ∃ a t, runOps pre s = .next a ∧
    runOps post a.afterReset = .next t ∧ runOps (pre ++ .reset :: post) s = .next t := by
  obtain ⟨a, ha⟩ := runOps_total pre s
  obtain ⟨t, ht⟩ := runOps_total post a.afterReset
  exact ⟨a, t, ha, ht, by rw [runOps_append ha, runOps_cons (exec_reset a), ht]⟩

/-- Settles O33: the `RESET` establishes the invariant and the operations after it keep it. -/
theorem linesFollowTheLatchedValuesAfterAnyReset : Obligations.LinesFollowTheLatchedValuesAfterAnyReset := by
  intro pre ops s
  obtain ⟨a, t, -, ht, hrun⟩ := exists_runOps_reset pre ops s
  exact ⟨t, hrun, (outputInvariant_afterReset _ _).runOps ht⟩

/-- Settles O34: the `RESET` draws the reading, and the read returns the last one given since. -/
theorem readReturnsTheLastReading : Obligations.ReadReturnsTheLastReading := by
  intro pre post s hnr
  obtain ⟨a, t, ha, ht, hrun⟩ := exists_runOps_reset pre post s
  refine ⟨t.returnByte t.block.ambient, ?_, ?_⟩
  · rw [← List.cons_append, ← List.append_assoc, runOps_append hrun, runOps_cons (exec_rdAmb t), runOps_nil]
  · rw [returnByte_hRdata, runOps_ambient hnr ht, state_afterReset_block, afterReset_ambient, runOps_draws ha]

/-- Settles O35: the `RESET` clears the intensities, and a wrap tick latches the last ones given since. -/
theorem wrapTickLatchesTheLastWrite : Obligations.WrapTickLatchesTheLastWrite := by
  intro pre post s hnr
  obtain ⟨a, t, -, ht, hrun⟩ := exists_runOps_reset pre post s
  refine ⟨t, _, hrun, exec_tick t, fun hw c => ?_⟩
  rw [withBlock_block, tick_l, if_pos hw, runOps_x_get hnr ht, state_afterReset_block, afterReset_x, Rgb.get_const]

/-- Settles O36: nothing between the reads touches the record, and of the readings stored there the last one stays. -/
theorem latestReadingWins : Obligations.LatestReadingWins := by
  intro s
  refine ⟨fun ops hnr hops => ?_, fun v w => ⟨_, runOps_cons (exec_sample v s) [.sample w], exec_sample w s⟩⟩
  obtain ⟨t, ht⟩ := runOps_total ops (s.returnByte s.block.ambient)
  refine ⟨t.returnByte t.block.ambient, ?_, ?_⟩
  · rw [runOps_cons (exec_rdAmb s), runOps_append ht, runOps_cons (exec_rdAmb t), runOps_nil]
  · rw [returnByte_record, runOps_ambient hnr ht, runOps_record hops ht, returnByte_block, returnByte_record]

end Sys2Proof.Machine

/-! The order of operations (20_memory.md section 5): which pairs commute, and which do not. -/

namespace Sys2Proof.Machine

/-- A `TICK` neither looks at the reading nor changes it. -/
theorem tick_setAmbient (b : Block) (v : Byte) : (b.setAmbient v).tick = b.tick.setAmbient v := by
  by_cases h : b.count.duty = 0#8
  · have h' : (b.setAmbient v).count.duty = 0#8 := h
    rw [Block.tick, Block.tick, startFrame_of_eq h, startFrame_of_eq h']
    rfl
  · have h' : (b.setAmbient v).count.duty ≠ 0#8 := h
    rw [Block.tick, Block.tick, startFrame_of_ne h, startFrame_of_ne h']
    rfl

/-- A `TICK` that is not the wrap tick neither looks at the intensities nor changes them. -/
theorem tick_setAllX {b : Block} (h : b.duty ≠ 255#8) (x : Rgb Byte) : (b.setAllX x).tick = b.tick.setAllX x := by
  have hd : b.count.duty ≠ 0#8 := mt (inc8_eq_zero_iff b.duty).mp h
  have hd' : (b.setAllX x).count.duty ≠ 0#8 := hd
  rw [Block.tick, Block.tick, startFrame_of_ne hd, startFrame_of_ne hd']
  rfl

/-- A run of two operations, each by what it does. -/
theorem runOps_pair {i j : Instr} {s t u : State} (hi : exec i s = .next t) (hj : exec j t = .next u) :
    runOps [i, j] s = .next u := by
  rw [runOps_cons hi, runOps_cons hj, runOps_nil]

theorem tick_commutes_sample (v : Byte) : OpsCommute .tick (.sample v) := by
  intro s
  rw [runOps_pair (exec_tick s) (exec_sample v _), runOps_pair (exec_sample v s) (exec_tick _)]
  simp only [withBlock_block, tick_setAmbient]
  rfl

theorem tick_commutes_rdAmb : OpsCommute .tick .rdAmb := by
  intro s
  rw [runOps_pair (exec_tick s) (exec_rdAmb _), runOps_pair (exec_rdAmb s) (exec_tick _)]
  simp only [withBlock_block, tick_ambient]
  rfl

theorem sample_commutes_write {i : Instr} (hi : isWrite i = true) (v : Byte) : OpsCommute (.sample v) i := by
  obtain ⟨f, hf⟩ := exec_of_isWrite hi
  intro s
  rw [runOps_pair (exec_sample v s) (hf _), runOps_pair (hf s) (exec_sample v _)]
  rfl

/-- Away from the wrap tick a `TICK` and a write may be exchanged. -/
theorem runOps_tick_write {i : Instr} {s : State} (hi : isWrite i = true) (hd : s.block.duty ≠ 255#8) :
    runOps [.tick, i] s = runOps [i, .tick] s := by
  obtain ⟨f, hf⟩ := exec_of_isWrite hi
  rw [runOps_pair (exec_tick s) (hf _), runOps_pair (hf s) (exec_tick _)]
  simp only [withBlock_block, tick_x, tick_setAllX hd]
  rfl

/-- Settles O37: a `TICK` off the wrap tick leaves the intensities alone, and every `TICK` the reading. -/
theorem disjointOperationsCommute : Obligations.DisjointOperationsCommute := by
  intro s v w r g b
  exact ⟨tick_commutes_sample v s, tick_commutes_rdAmb s, fun i hi => sample_commutes_write hi v s,
    fun i hi hd => runOps_tick_write hi hd, rfl, rfl, rfl, fun hd => runOps_tick_write rfl hd⟩

/-- The two orders of a pair differ where something that can be seen of the two last states differs. -/
theorem runOps_ne_of_observed {α : Type} (f : State → α) {as bs : List Instr} {s t u : State}
    (ht : runOps as s = .next t) (hu : runOps bs s = .next u) (hf : f t ≠ f u) : runOps as s ≠ runOps bs s := by
  intro h
  rw [ht, hu, Host.Outcome.next.injEq] at h
  exact hf (congrArg f h)

/-- Before or after the wrap tick: a write that changes an intensity is latched or not. -/
theorem wrapTick_write_ne {i : Instr} {s t : State} (hw : isWrite i = true) (ht : exec i s = .next t)
    (hx : t.block.x ≠ s.block.x) (hd : s.block.duty = 255#8) : runOps [.tick, i] s ≠ runOps [i, .tick] s := by
  obtain ⟨f, hf⟩ := exec_of_isWrite hw
  cases ht.symm.trans (hf s)
  refine runOps_ne_of_observed (·.block.l) (runOps_pair (exec_tick s) (hf _)) (runOps_pair (hf s) (exec_tick _)) ?_
  have hd' : (s.block.setAllX (f s.block.x)).duty = 255#8 := hd
  simpa only [withBlock_block, setAllX_l, setAllX_x, tick_l, if_pos hd, if_pos hd'] using hx.symm

/-- A `RESET` clears what was written before it, and nothing written after it. -/
theorem reset_write_ne {i : Instr} {c : Channel} {v : Byte} {s : State} (hi : written c i = some v) (hv : v ≠ 0#8) :
    runOps [.reset, i] s ≠ runOps [i, .reset] s := by
  obtain ⟨t, ht⟩ := exec_total i s
  obtain ⟨u, hu⟩ := exec_total i s.afterReset
  refine runOps_ne_of_observed (·.block.x.get c) (runOps_pair (exec_reset s) hu) (runOps_pair ht (exec_reset t)) ?_
  have hr : i ≠ .reset := by rintro rfl; cases hi
  simpa only [exec_x_get hr hu, hi, Option.getD_some, state_afterReset_block, afterReset_x, Rgb.get_const] using hv

/-- Settles O38: for each pair one register or the record tells the two orders apart. -/
theorem otherPairsDoNotCommute : Obligations.OtherPairsDoNotCommute := by
  intro s v w r g b
  have hinc : inc8 Config.dutyReset ≠ Config.dutyReset := by unfold inc8; bv_omega
  refine ⟨fun i t hw ht hx hd => wrapTick_write_ne hw ht hx hd, fun h => ?_, fun h => ?_, fun h => ?_, fun h => ?_,
    fun h => ?_, fun h => ?_, fun h => ?_, fun h => ?_, fun r' g' b' h => ?_, ?_, fun h => ?_, fun i c hi hv => reset_write_ne hi hv,
    fun h => ?_⟩
  · exact runOps_ne_of_observed State.hRdata rfl rfl fun e => h (Option.some.inj e)
  · exact runOps_ne_of_observed (·.block.ambient) rfl rfl h.symm
  · exact runOps_ne_of_observed (·.block.x.r) rfl rfl h.symm
  · exact runOps_ne_of_observed (·.block.x.g) rfl rfl h.symm
  · exact runOps_ne_of_observed (·.block.x.b) rfl rfl h.symm
  · exact runOps_ne_of_observed (·.block.x.r) rfl rfl h
  · exact runOps_ne_of_observed (·.block.x.g) rfl rfl h
  · exact runOps_ne_of_observed (·.block.x.b) rfl rfl h
  · refine runOps_ne_of_observed (·.block.x) rfl rfl fun e => ?_
    obtain ⟨hr, hg, hb⟩ := Rgb.mk.inj e
    simp [hr, hg, hb] at h
  · exact runOps_ne_of_observed (·.block.duty) (runOps_pair (exec_reset s) (exec_tick _))
      (runOps_pair (exec_tick s) (exec_reset _)) (by simpa using hinc)
  · exact runOps_ne_of_observed (·.block.ambient) rfl rfl h
  · exact runOps_ne_of_observed State.hRdata rfl rfl fun e => h (Option.some.inj e).symm

/-! Two runs side by side: the channels, the host's view and the renderer do not see one another. -/

/-- Settles O28: the agreement on one channel is kept by every run. -/
theorem channelsAreIndependent : Obligations.ChannelsAreIndependent := by
  intro c ops s₁ s₂ hduty hx hl hout
  obtain ⟨t₁, h₁⟩ := runOps_total ops s₁
  obtain ⟨t₂, h₂⟩ := runOps_total ops s₂
  have h : ChannelAgrees c t₁.block t₂.block := ChannelAgrees.runOps ⟨⟨hduty, hl, hout⟩, hx⟩ h₁ h₂
  exact ⟨t₁, t₂, h₁, h₂, h.duty, h.intensity, h.latched, h.line⟩

/-- Two states show the host the same: the reading, the values returned, and the number of the next draw. -/
structure HostViewAgrees (s s' : State) : Prop where
  ambient : s.block.ambient = s'.block.ambient
  record  : s.record = s'.record
  draws   : s.draws = s'.draws

/-- The same operation keeps it. -/
theorem HostViewAgrees.exec {i : Instr} {s s' t t' : State} (h : HostViewAgrees s s') (ht : exec i s = .next t)
    (ht' : exec i s' = .next t') : HostViewAgrees t t' := by
  by_cases hr : i = .reset
  · subst hr; cases ht; cases ht'
    exact ⟨congrArg Config.ambientReset h.draws, h.record, congrArg (· + 1) h.draws⟩
  have hambient : t.block.ambient = t'.block.ambient := by rw [exec_ambient hr ht, exec_ambient hr ht', h.ambient]
  have hdraws : t.draws = t'.draws := by rw [exec_draws hr ht, exec_draws hr ht', h.draws]
  by_cases hi : i = .rdAmb
  · subst hi; cases ht; cases ht'
    exact ⟨hambient, congrArg₂ List.cons h.ambient h.record, hdraws⟩
  · exact ⟨hambient, by rw [exec_record hi ht, exec_record hi ht', h.record], hdraws⟩

/-- So does the same run. -/
theorem HostViewAgrees.runOps {ops : List Instr} {s s' t t' : State} (h : HostViewAgrees s s')
    (ht : runOps ops s = .next t) (ht' : runOps ops s' = .next t') : HostViewAgrees t t' := by
  induction ops generalizing s s' with
  | nil => cases ht; cases ht'; exact h
  | cons i is ih =>
    obtain ⟨u, hu, hrest⟩ := exists_exec_of_runOps_cons ht
    obtain ⟨u', hu', hrest'⟩ := exists_exec_of_runOps_cons ht'
    exact ih (h.exec hu hu') hrest hrest'

/-- Settles O39: what the host sees depends on what it has seen, never on the renderer. -/
theorem hostLearnsNothingOfTheRenderer : Obligations.HostLearnsNothingOfTheRenderer := by
  intro ops s₁ s₂ hambient hrecord hdraws
  obtain ⟨t₁, h₁⟩ := runOps_total ops s₁
  obtain ⟨t₂, h₂⟩ := runOps_total ops s₂
  have h : HostViewAgrees t₁ t₂ := HostViewAgrees.runOps ⟨hambient, hrecord, hdraws⟩ h₁ h₂
  exact ⟨t₁, t₂, h₁, h₂, h.record, h.ambient⟩

/-- Two register files agree on all but the reading. -/
def SameRenderer (b b' : Block) : Prop := ∃ a, b = b'.setAmbient a

/-- A `SAMPLE` or a read done in one of two states that agree on the renderer. -/
theorem SameRenderer.exec_reading {i : Instr} {s t : State} {b : Block} (hi : isAboutReading i = true)
    (h : SameRenderer s.block b) (ht : exec i s = .next t) : SameRenderer t.block b := by
  obtain ⟨a, ha⟩ := h
  cases i with
  | sample v => cases ht; exact ⟨v, by rw [withBlock_block, ha]; rfl⟩
  | rdAmb => cases ht; exact ⟨a, ha⟩
  | tick | wrR _ | wrG _ | wrB _ | wrRgb _ _ _ | reset => cases hi

/-- Any other operation done in both. -/
theorem SameRenderer.exec {i : Instr} {s s' t t' : State} (hi : isAboutReading i = false) (h : SameRenderer s.block s'.block)
    (ht : exec i s = .next t) (ht' : exec i s' = .next t') : SameRenderer t.block t'.block := by
  obtain ⟨a, ha⟩ := h
  by_cases hw : isWrite i = true
  · obtain ⟨f, hf⟩ := exec_of_isWrite hw
    cases ht.symm.trans (hf s)
    cases ht'.symm.trans (hf s')
    exact ⟨a, by rw [withBlock_block, withBlock_block, ha]; rfl⟩
  cases i with
  | tick =>
    cases ht; cases ht'
    exact ⟨a, by rw [withBlock_block, withBlock_block, ha, tick_setAmbient]⟩
  | reset => cases ht; cases ht'; exact ⟨_, rfl⟩
  | sample _ | rdAmb => cases hi
  | wrR _ | wrG _ | wrB _ | wrRgb _ _ _ => exact absurd rfl hw

/-- A run and the same run without its `SAMPLE`s and reads. -/
theorem SameRenderer.runOps_filter {ops : List Instr} {s s' t t' : State} (h : SameRenderer s.block s'.block)
    (ht : runOps ops s = .next t) (ht' : runOps (ops.filter (fun i => !isAboutReading i)) s' = .next t') :
    SameRenderer t.block t'.block := by
  induction ops generalizing s s' with
  | nil => cases ht; cases ht'; exact h
  | cons i is ih =>
    obtain ⟨u, hu, hrest⟩ := exists_exec_of_runOps_cons ht
    by_cases hi : isAboutReading i = true
    · rw [List.filter_cons_of_neg (by simp [hi])] at ht'
      exact ih (h.exec_reading hi hu) hrest ht'
    · rw [Bool.not_eq_true] at hi
      rw [List.filter_cons_of_pos (by simp [hi])] at ht'
      obtain ⟨u', hu', hrest'⟩ := exists_exec_of_runOps_cons ht'
      exact ih (h.exec hi hu hu') hrest hrest'

/-- Settles O40: the two runs keep their agreement on all but the reading. -/
theorem rendererIgnoresTheSampler : Obligations.RendererIgnoresTheSampler := by
  intro ops s
  obtain ⟨t, ht⟩ := runOps_total ops s
  obtain ⟨u, hu⟩ := runOps_total (ops.filter (fun i => !isAboutReading i)) s
  obtain ⟨a, ha⟩ : SameRenderer t.block u.block := SameRenderer.runOps_filter ⟨s.block.ambient, rfl⟩ ht hu
  exact ⟨t, u, ht, hu, by rw [ha]; rfl⟩

end Sys2Proof.Machine

/-! The lines over a frame (40_pwm_renderer.md section 5). -/

namespace Sys2Proof.Machine

/-- Settles O30: a line is turned ON where the counter has become 0 only, and OFF where it equals the latched value only. -/
theorem edgesRevealTheCounter : Obligations.EdgesRevealTheCounter := by
  intro s c
  refine ⟨⟨_, exec_tick s, fun hoff hon => ?_, fun hon hoff => ?_⟩, fun i hi hr => ?_⟩
  · rw [withBlock_block, tick_out_get, hoff] at hon
    split_ifs at hon with hstart
    exact hstart.1
  · rw [withBlock_block, tick_out_get, hon] at hoff
    split_ifs at hoff with hstart hequal
    exact hequal.symm
  · obtain ⟨t, ht⟩ := exec_total i s
    exact ⟨t, ht, (exec_keeps_renderer hi hr ht).2.2⟩

section Room

variable {ops : List Instr} {s t : State}

/-- A run whose `TICK`s the counter's top leaves room for latches nothing (R54). -/
theorem runOps_l_of_room (hnr : NoReset ops) (hroom : s.block.duty.toNat + tickCount ops ≤ 255)
    (ht : runOps ops s = .next t) : t.block.l = s.block.l := by
  have hagrees (c) : LineAgrees c t.block (Block.tick^[tickCount ops] s.block) :=
    LineAgrees.runOps_ticks ⟨rfl, rfl, rfl⟩ hnr hroom ht
  exact (Rgb.ext_get fun c => (hagrees c).latched).trans (iterate_tick_l hroom)

/-- It adds the number of its `TICK`s to the counter, which does not wrap (R52). -/
theorem runOps_duty_of_room (hnr : NoReset ops) (hroom : s.block.duty.toNat + tickCount ops ≤ 255)
    (ht : runOps ops s = .next t) : t.block.duty.toNat = s.block.duty.toNat + tickCount ops := by
  rw [runOps_duty hnr ht, BitVec.toNat_add, BitVec.toNat_ofNat]
  omega

/-- At its end each line is ON exactly where the counter is below the value latched at its beginning. -/
theorem runOps_line_of_room (hinv : OutputInvariant s.block) (hnr : NoReset ops)
    (hroom : s.block.duty.toNat + tickCount ops ≤ 255) (ht : runOps ops s = .next t) (c : Channel) :
    t.block.out.get c = ON ↔ s.block.duty.toNat + tickCount ops < (s.block.l.get c).toNat := by
  rw [hinv.runOps ht c, BitVec.lt_def, runOps_duty_of_room hnr hroom ht, runOps_l_of_room hnr hroom ht]

/-- The levels of a line after the run's `TICK`s, by the counter's values after them. -/
theorem afterTicks_line_of_room (hinv : OutputInvariant s.block) (hnr : NoReset ops)
    (hroom : s.block.duty.toNat + tickCount ops ≤ 255) (c : Channel) :
    afterTicks (fun b => b.out.get c) ops s = (afterTicks Block.duty ops s).map fun d => decide (d < s.block.l.get c) := by
  induction ops generalizing s with
  | nil => rfl
  | cons i is ih =>
    obtain ⟨hr, hnr'⟩ := noReset_cons.mp hnr
    by_cases hi : i = .tick
    · subst hi
      rw [tickCount_tick_cons] at hroom
      obtain ⟨hw, hroom'⟩ := tick_room hroom
      have hl : s.block.tick.l = s.block.l := by rw [tick_l, if_neg hw]
      have hhead : s.block.tick.out.get c = decide (s.block.tick.duty < s.block.tick.l.get c) :=
        Bool.eq_iff_iff.mpr ((hinv.tick c).trans decide_eq_true_iff.symm)
      rw [afterTicks_tick_cons, afterTicks_tick_cons, ih (s := s.withBlock s.block.tick) hinv.tick hnr' hroom', List.map_cons,
        hhead, withBlock_block, hl]
    · rw [tickCount_cons_of_ne hi] at hroom
      obtain ⟨t, ht⟩ := exec_total i s
      obtain ⟨hd, hl, -⟩ := exec_keeps_renderer hi hr ht
      rw [afterTicks_cons_of_ne _ hi ht, afterTicks_cons_of_ne _ hi ht, ih (hinv.exec ht) hnr' (hd ▸ hroom), hl]

end Room

/-- From a wrap tick on, through the frame that it starts: the values latched in it stay, the counter counts the further
`TICK`s, and a line is ON exactly where their number is below its latched value. -/
theorem runOps_frame {ops : List Instr} {s t : State} (hw : s.block.duty = 255#8) (hnr : NoReset ops)
    (hticks : tickCount ops ≤ 255) (ht : runOps (.tick :: ops) s = .next t) :
    t.block.l = s.block.x ∧ t.block.duty.toNat = tickCount ops ∧
      ∀ c, t.block.out.get c = ON ↔ tickCount ops < (s.block.x.get c).toNat := by
  rw [runOps_cons (exec_tick s)] at ht
  have hduty : s.block.tick.duty.toNat = 0 := by rw [tick_duty, (inc8_eq_zero_iff _).mpr hw]; rfl
  have hl : s.block.tick.l = s.block.x := by rw [tick_l, if_pos hw]
  have hroom : (s.withBlock s.block.tick).block.duty.toNat + tickCount ops ≤ 255 := by rw [withBlock_block, hduty]; omega
  refine ⟨(runOps_l_of_room hnr hroom ht).trans hl, ?_, fun c => ?_⟩
  · rw [runOps_duty_of_room hnr hroom ht, withBlock_block, hduty, Nat.zero_add]
  · rw [runOps_line_of_room (outputInvariant_tick_of_wrap hw) hnr hroom ht, withBlock_block, hduty, hl, Nat.zero_add]

/-- Settles O26: the frame's third clause. -/
theorem lineIsOnBelowItsLatchedValue : Obligations.LineIsOnBelowItsLatchedValue := by
  intro s ops hw hnr hticks
  obtain ⟨t, ht⟩ := runOps_total (.tick :: ops) s
  obtain ⟨-, -, hline⟩ := runOps_frame hw hnr hticks ht
  exact ⟨t, ht, hline⟩

/-- The intervals of a frame below `v`, in order: the first `v` of them. -/
theorem map_range_lt {n v : Nat} (h : v ≤ n) :
    ((List.range n).map fun k => decide (k < v)) = List.replicate v ON ++ List.replicate (n - v) OFF := by
  apply List.ext_getElem
  · simp; omega
  · intro k _ _
    rw [List.getElem_map, List.getElem_range, List.getElem_append]
    by_cases hk : k < v <;> simp [hk]

/-- Settles O27: the levels follow the counter's values, which over a frame are 0, 1, …, 255. -/
theorem lineIsOnForExactlyItsLatchedValue : Obligations.LineIsOnForExactlyItsLatchedValue := by
  intro s ops c hw hnr hticks
  have hinv := outputInvariant_tick_of_wrap hw
  have hl : s.block.tick.l = s.block.x := by rw [tick_l, if_pos hw]
  have hhead : s.block.tick.out.get c = decide (s.block.tick.duty < s.block.x.get c) :=
    Bool.eq_iff_iff.mpr ((hinv c).trans (hl ▸ decide_eq_true_iff.symm))
  have hroom : s.block.tick.duty.toNat + tickCount ops ≤ 255 := by
    rw [tick_duty, (inc8_eq_zero_iff _).mpr hw, hticks]; rfl
  have hlevels : afterTicks (fun b => b.out.get c) (.tick :: ops) s =
      (afterTicks Block.duty (.tick :: ops) s).map fun d => decide (d < s.block.x.get c) := by
    rw [afterTicks_tick_cons, afterTicks_tick_cons, List.map_cons, hhead,
      afterTicks_line_of_room (s := s.withBlock s.block.tick) hinv hnr hroom, withBlock_block, hl]
  have hcounter : NoReset (.tick :: ops) := noReset_cons.mpr ⟨by decide, hnr⟩
  rw [hlevels, afterTicks_duty hcounter, tickCount_tick_cons, hticks, hw, List.map_map,
    ← map_range_lt (Nat.le_of_lt (s.block.x.get c).isLt)]
  refine List.map_congr_left fun k hk => ?_
  have hk' : k < 256 := List.mem_range.mp hk
  have hvalue : (255#8 + BitVec.ofNat 8 (k + 1)).toNat = k := by
    rw [BitVec.toNat_add, BitVec.toNat_ofNat, BitVec.toNat_ofNat]; omega
  simp only [Function.comp_apply, BitVec.lt_def, hvalue]

end Sys2Proof.Machine

/-! Update latency, mixed frames and progress (70_reset_and_hazards.md). -/

namespace Sys2Proof.Machine

/-- Settles O41: the `RESET` leaves 0 latched, below which no counter is, and the counter's top is `255 − DUTY_RESET` away. -/
theorem firstPartialFrameIsDark : Obligations.FirstPartialFrameIsDark := by
  intro s ops hnr hroom
  obtain ⟨t, ht⟩ := runOps_total ops s.afterReset
  have hl : t.block.l = ⟨0#8, 0#8, 0#8⟩ := runOps_l_of_room hnr hroom ht
  have hduty : t.block.duty.toNat = Config.dutyReset.toNat + tickCount ops := runOps_duty_of_room hnr hroom ht
  have hdark (c) : t.block.out.get c = OFF := by
    have hline := runOps_line_of_room (outputInvariant_afterReset _ _) hnr hroom ht c
    simpa using hline
  refine ⟨t, _, (runOps_cons (exec_reset s) ops).trans ht, Rgb.ext_get fun c => ?_, hl, hduty, exec_tick t, ?_, fun h => ?_⟩
  · rw [hdark, Rgb.get_const]
  · rw [withBlock_block, tick_duty, inc8_eq_zero_iff, ← BitVec.toNat_inj, hduty]
    simp only [BitVec.toNat_ofNat]
    omega
  · rw [withBlock_block, tick_duty, inc8_eq_zero_iff] at h
    rw [withBlock_block, tick_l, if_pos h]

/-! Runs without intensity writes. -/

theorem written_of_not_isWrite {i : Instr} (hi : isWrite i = false) (c : Channel) : written c i = none := by
  cases i with
  | wrR _ | wrG _ | wrB _ | wrRgb _ _ _ => cases hi
  | tick | sample _ | rdAmb | reset => rfl

/-- An operation that is neither an intensity write nor `RESET` keeps the intensities. -/
theorem exec_x {i : Instr} {s t : State} (hi : i ≠ .reset ∧ isWrite i = false) (h : exec i s = .next t) :
    t.block.x = s.block.x :=
  Rgb.ext_get fun c => by rw [exec_x_get hi.1 h, written_of_not_isWrite hi.2, Option.getD_none]

section NoWrites

variable {ops : List Instr} {s t : State}

theorem runOps_x (hnr : NoReset ops) (hnw : NoWrite ops) (ht : runOps ops s = .next t) : t.block.x = s.block.x :=
  runOps_keeps (·.block.x) exec_x (fun i hi => ⟨fun e => hnr (e ▸ hi), hnw i hi⟩) ht

/-- Without writes the latched values stay or become the intensities. -/
theorem runOps_l_cases (hnr : NoReset ops) (hnw : NoWrite ops) (ht : runOps ops s = .next t) :
    t.block.l = s.block.l ∨ t.block.l = s.block.x := by
  obtain hsame | ⟨pre, post, u, rfl, hu, -, hx⟩ := runOps_latched_cases hnr ht
  · exact .inl hsame
  · have hnr' : NoReset pre := fun h => hnr (List.mem_append_left _ h)
    have hnw' : NoWrite pre := fun i hi => hnw i (List.mem_append_left _ hi)
    exact .inr (hx.symm.trans (runOps_x hnr' hnw' hu))

/-- A run that ends with the wrap tick, and whatever follows it before the next `TICK`, latches the intensities. -/
theorem runOps_l_of_wrap (hnr : NoReset ops) (hnw : NoWrite ops) (hwrap : s.block.duty.toNat + tickCount ops = 256)
    (ht : runOps ops s = .next t) : t.block.l = s.block.x := by
  induction ops generalizing s with
  | nil =>
    have := s.block.duty.isLt
    rw [tickCount_nil] at hwrap
    omega
  | cons i is ih =>
    obtain ⟨u, hu, hrest⟩ := exists_exec_of_runOps_cons ht
    obtain ⟨hr, hnr'⟩ := noReset_cons.mp hnr
    obtain ⟨hwi, hnw'⟩ := List.forall_mem_cons.mp hnw
    by_cases hi : i = .tick
    · subst hi; cases hu
      rw [tickCount_tick_cons] at hwrap
      by_cases hw : s.block.duty = 255#8
      · have hnone : tickCount is = 0 := by
          rw [hw, BitVec.toNat_ofNat] at hwrap
          omega
        exact (runOps_frame hw hnr' (by omega) (runOps_cons (exec_tick s) is ▸ hrest)).1
      · have hwrap' : s.block.tick.duty.toNat + tickCount is = 256 := by
          rw [tick_duty, inc8_toNat hw]
          omega
        rw [ih hnr' hnw' hwrap' hrest, withBlock_block, tick_x]
    · rw [tickCount_cons_of_ne hi] at hwrap
      rw [ih hnr' hnw' ((exec_keeps_renderer hi hr hu).1 ▸ hwrap) hrest, exec_x ⟨hr, hwi⟩ hu]

end NoWrites

/-- Settles O42: before the wrap tick nothing is latched, and the wrap tick latches the intensities, which no write moved. -/
theorem writtenColourIsLatchedAtTheNextWrap : Obligations.WrittenColourIsLatchedAtTheNextWrap := by
  intro s ops hnr hnw
  obtain ⟨t, ht⟩ := runOps_total ops s
  have := s.block.duty.isLt
  exact ⟨fun h => ⟨t, ht, runOps_l_of_room hnr (by omega) ht⟩,
    fun h => ⟨t, ht, runOps_l_of_wrap hnr hnw (by omega) ht⟩⟩

/-- Settles O43: the clear moves neither the counter nor the latched value nor the line. -/
theorem clearDoesNotDarkenALineAtOnce : Obligations.ClearDoesNotDarkenALineAtOnce := by
  intro s ops c hinv hnr hbelow
  obtain ⟨t, ht⟩ := runOps_total (.wrRgb 0#8 0#8 0#8 :: ops) s
  have hclear := exec_wrRgb 0#8 0#8 0#8 s
  have hroom : s.block.duty.toNat + tickCount ops ≤ 255 := by
    have := (s.block.l.get c).isLt
    omega
  exact ⟨t, ht, (runOps_line_of_room (hinv.exec hclear) hnr hroom ((runOps_cons hclear ops).symm.trans ht) c).mpr hbelow⟩

/-- Settles O44: before the write the intensities stand as at the start, after it they are the new triple. -/
theorem tripleWriteIsNeverLatchedInPart : Obligations.TripleWriteIsNeverLatchedInPart := by
  intro s pre post r g b hpre hpost hwpre hwpost
  obtain ⟨u, hu⟩ := runOps_total pre s
  obtain ⟨t, ht⟩ := runOps_total post (u.withBlock (u.block.setAllX ⟨r, g, b⟩))
  refine ⟨t, by rw [runOps_append hu, runOps_cons (exec_wrRgb r g b u), ht], ?_⟩
  obtain hold | hnew := runOps_l_cases hpost hwpost ht
  · obtain hstart | hcolour := runOps_l_cases hpre hwpre hu
    · exact .inl (hold.trans hstart)
    · exact .inr (.inl (hold.trans hcolour))
  · exact .inr (.inr hnew)

/-! Three byte writes with the wrap tick among them. -/

section ByteWrites

variable {ops : List Instr} {r g b : Byte}

/-- Each channel is written once, whatever the order. -/
theorem lastWritten_of_perm (hp : ops.Perm [.wrR r, .wrG g, .wrB b]) (c : Channel) :
    lastWritten c ops = some (Rgb.get ⟨r, g, b⟩ c) := by
  have honce : (ops.filterMap (written c)).Perm [Rgb.get ⟨r, g, b⟩ c] := by
    cases c <;> exact hp.filterMap _
  rw [lastWritten, List.perm_singleton.mp honce, List.getLast?_singleton]

theorem mem_byteWrites_of_perm (hp : ops.Perm [.wrR r, .wrG g, .wrB b]) {i : Instr} (hi : i ∈ ops) :
    i ≠ .reset ∧ i ≠ .tick := by
  have hmem := hp.mem_iff.mp hi
  simp only [List.mem_cons, List.not_mem_nil, or_false] at hmem
  obtain rfl | rfl | rfl := hmem <;> simp

end ByteWrites

theorem tickCount_append (as bs : List Instr) : tickCount (as ++ bs) = tickCount as + tickCount bs := List.count_append

theorem tickCount_eq_zero {ops : List Instr} (h : .tick ∉ ops) : tickCount ops = 0 := List.count_eq_zero_of_not_mem h

theorem noReset_append {as bs : List Instr} (has : NoReset as) (hbs : NoReset bs) : NoReset (as ++ bs) :=
  fun h => (List.mem_append.mp h).elim has hbs

/-- Settles O45: the tick latches what stands written by then, the frame is rendered by that, and its end latches the rest. -/
theorem byteWritesCanBeLatchedInPart : Obligations.ByteWritesCanBeLatchedInPart := by
  intro s pre post ops r g b hw hp hnr hticks
  have hmem {i} (hi : i ∈ pre ++ post) := mem_byteWrites_of_perm hp hi
  have hpre : NoReset pre := fun h => (hmem (List.mem_append_left post h)).1 rfl
  have hpost : NoReset post := fun h => (hmem (List.mem_append_right pre h)).1 rfl
  have hpre0 : tickCount pre = 0 := tickCount_eq_zero fun h => (hmem (List.mem_append_left post h)).2 rfl
  have hpost0 : tickCount post = 0 := tickCount_eq_zero fun h => (hmem (List.mem_append_right pre h)).2 rfl
  obtain ⟨a, ha⟩ := runOps_total pre s
  obtain ⟨t, ht⟩ := runOps_total (.tick :: post) a
  obtain ⟨u, hu⟩ := runOps_total ops t
  have hwa : a.block.duty = 255#8 := by rw [runOps_duty hpre ha, hpre0, hw]; rfl
  have hrun : runOps (pre ++ .tick :: post) s = .next t := (runOps_append ha).trans ht
  have hframe : runOps (.tick :: (post ++ ops)) a = .next u := by rw [← List.cons_append, runOps_append ht, hu]
  have hcount : tickCount (post ++ ops) = tickCount ops := by rw [tickCount_append, hpost0, Nat.zero_add]
  have htx : t.block.x = ⟨r, g, b⟩ := Rgb.ext_get fun c => by
    have hlast : lastWritten c (pre ++ .tick :: post) = lastWritten c (pre ++ post) := by
      simp [lastWritten, written]
    have hnr' : NoReset (pre ++ .tick :: post) := noReset_append hpre (noReset_cons.mpr ⟨by decide, hpost⟩)
    rw [runOps_x_get hnr' hrun, hlast, lastWritten_of_perm hp, Option.getD_some]
  obtain ⟨htl, -, -⟩ := runOps_frame hwa hpost (by omega) ht
  obtain ⟨hul, hud, hline⟩ := runOps_frame hwa (noReset_append hpost hnr) (hcount ▸ hticks) hframe
  rw [hcount] at hud hline
  refine ⟨t, u, hrun, fun c => ?_, htx, hu, hul.trans htl.symm, fun c => htl ▸ hline c, fun hlast hnw => ?_⟩
  · rw [htl, runOps_x_get hpre ha]
  · have hwu : u.block.duty = 255#8 := BitVec.eq_of_toNat_eq (hud.trans hlast)
    have hux : u.block.x = ⟨r, g, b⟩ := (runOps_x hnr hnw hu).trans htx
    refine ⟨_, exec_tick u, ?_, fun c => ?_⟩
    · rw [withBlock_block, tick_l, if_pos hwu, hux]
    · rw [withBlock_block, tick_out_wrap hwu, hux, decide_eq_true_iff]

/-! Endless runs (R104). -/

section Endless

variable (σ : Nat → Instr)

theorem firstOps_succ (n : Nat) : firstOps σ (n + 1) = firstOps σ n ++ [σ n] := by
  simp [firstOps, List.range_succ]

theorem noReset_firstOps (h : ∀ n, σ n ≠ .reset) (n : Nat) : NoReset (firstOps σ n) := by
  simp [NoReset, firstOps, h]

/-- The `TICK`s of a run's first operations, counted as Mathlib counts the numbers with a property below a bound. -/
theorem tickCount_firstOps (n : Nat) : tickCount (firstOps σ n) = Nat.count (σ · = .tick) n := by
  induction n with
  | zero => rfl
  | succ n ih =>
    rw [firstOps_succ, tickCount_append, ih, Nat.count_succ]
    split_ifs with h
    · rw [h]; rfl
    · rw [tickCount_cons_of_ne h]; rfl

/-- Where `TICK`s never end, each number of them is reached, right before a further `TICK`. -/
theorem exists_tick_after {σ : Nat → Instr} (h : ∀ n, ∃ m, n ≤ m ∧ σ m = .tick) {n k : Nat}
    (hk : tickCount (firstOps σ n) ≤ k) : ∃ m, n ≤ m ∧ σ m = .tick ∧ tickCount (firstOps σ m) = k := by
  have hinf : Set.Infinite {m | σ m = .tick} := Set.infinite_of_not_bddAbove fun ⟨B, hB⟩ => by
    obtain ⟨m, hm, htick⟩ := h (B + 1)
    have := hB htick
    omega
  rw [tickCount_firstOps] at hk
  exact ⟨Nat.nth (σ · = .tick) k, (Nat.count_le_iff_le_nth hinf).mp hk, Nat.nth_mem_of_infinite hinf k,
    (tickCount_firstOps σ _).trans (Nat.count_nth_of_infinite hinf k)⟩

end Endless

/-- Settles O46: of the `TICK`s to come one is reached that finds the counter at its top, and of the `SAMPLE`s one is. -/
theorem fairRunsLatchAndRefresh : Obligations.FairRunsLatchAndRefresh := by
  intro σ s hfair hnr n
  constructor
  · have hk : tickCount (firstOps σ n) ≤ 256 * tickCount (firstOps σ n) + (255 - s.block.duty.toNat) := by omega
    obtain ⟨m, hnm, htick, hcount⟩ := exists_tick_after (fun k => (hfair k).1) hk
    obtain ⟨t, ht⟩ := runOps_total (firstOps σ m) s
    have hw : t.block.duty = 255#8 := by
      rw [runOps_duty (noReset_firstOps σ hnr m) ht, hcount]
      apply BitVec.eq_of_toNat_eq
      have := s.block.duty.isLt
      rw [BitVec.toNat_add, BitVec.toNat_ofNat, BitVec.toNat_ofNat]
      omega
    exact ⟨m, t, _, hnm, htick, ht, hw, exec_tick t, by rw [withBlock_block, tick_l, if_pos hw]⟩
  · obtain ⟨m, v, hnm, hsample⟩ := (hfair n).2
    obtain ⟨t, ht⟩ := runOps_total (firstOps σ m) s
    refine ⟨m, v, t.withBlock (t.block.setAmbient v), hnm, hsample, ?_, rfl⟩
    rw [firstOps_succ, hsample, runOps_append ht, runOps_cons (exec_sample v t), runOps_nil]

end Sys2Proof.Machine
